-- ==== Sys2Proof/Word.lean ====
section
/-! DEFINITION. The words that cross the boundary of CORE (30_encoding.md R40, R45).
CORE has no byte order: each word is a whole bit vector, bit 0 the least significant (20_memory.md R33). -/

namespace Sys2Proof

/-- A binary16 word `h[15:0]` (30_encoding.md R40). -/
abbrev Half := BitVec 16

/-- A binary32 word `f[31:0]` (30_encoding.md R45). -/
abbrev Single := BitVec 32

end Sys2Proof
end

