-- ==== Sys2Proof/Syntax.lean ====
section
/-! DEFINITION. The thirteen operations of CORE (30_encoding.md R55, opcode_table.json), one constructor a row, and
the raw request words an environment presents (R50, R51, R54). -/

namespace Sys2Proof

/-- The five rounding modes (30_encoding.md R52). -/
inductive Mode where
  /-- toward zero -/
  | rtz
  /-- to nearest, ties by `NEAREST_TIES` -/
  | rn
  /-- toward positive infinity -/
  | ru
  /-- toward negative infinity -/
  | rd
  /-- indeterminate / fastest available: to nearest, ties by `IND_TIES` -/
  | ind
  deriving DecidableEq, Repr

/-- One operation of CORE with its operands (30_encoding.md R55, R56). -/
inductive Instr where
  /-- H2F, half to single (40_h2f.md R70). -/
  | h2f (h : Half)
  /-- F2H.RTZ (41_f2h.md R91). -/
  | f2hRtz (f : Single)
  /-- F2H.RN (41_f2h.md R92). -/
  | f2hRn (f : Single)
  /-- F2H.RU (41_f2h.md R93). -/
  | f2hRu (f : Single)
  /-- F2H.RD (41_f2h.md R94). -/
  | f2hRd (f : Single)
  /-- F2H.IND (41_f2h.md R95). -/
  | f2hInd (f : Single)
  /-- RND.RTZ (42_rounding_unit.md R111). -/
  | rndRtz (sgn l g t : Bool)
  /-- RND.RN (42_rounding_unit.md R112). -/
  | rndRn (sgn l g t : Bool)
  /-- RND.RU (42_rounding_unit.md R113). -/
  | rndRu (sgn l g t : Bool)
  /-- RND.RD (42_rounding_unit.md R114). -/
  | rndRd (sgn l g t : Bool)
  /-- RND.IND (42_rounding_unit.md R115). -/
  | rndInd (sgn l g t : Bool)
  /-- SUB.NORM16 (43_subnormal_handler.md R121). -/
  | subNorm16 (m : BitVec 10)
  /-- SUB.DENORM32 (43_subnormal_handler.md R122). -/
  | subDenorm32 (e8 : BitVec 8) (m23 : BitVec 23)
  deriving DecidableEq, Repr

/-- A request word on a channel or an internal interface, before decoding.
The interface a word stands on is part of the request: no bit of the word selects it (30_encoding.md R50, R51, R54). -/
inductive Request where
  /-- the H2F channel, 16 bits (R50) -/
  | h2f (w : BitVec 16)
  /-- the F2H channel, 35 bits, `rm` on top (R51) -/
  | f2h (w : BitVec 35)
  /-- the RND interface, 7 bits, `rm` on top (R54) -/
  | rnd (w : BitVec 7)
  /-- the SUB interface to H2F, 10 bits (R54) -/
  | norm16 (w : BitVec 10)
  /-- the SUB interface to F2H, 31 bits (R54) -/
  | denorm32 (w : BitVec 31)
  deriving DecidableEq, Repr

end Sys2Proof
end

