-- ==== Sys2Proof/Decode.lean ====
section
/-! DEFINITION. The rounding-mode codes (30_encoding.md R52), the decoder of a request word, total, rejecting a reserved
code by name (R53), the encoder from the same layouts (R50, R51, R54), and the rows of opcode_table.json. -/

namespace Sys2Proof

/-! ## The rounding-mode field -/

/-- The code of a mode (30_encoding.md R52). -/
def Mode.code : Mode → BitVec 3
  | .rtz => 0b000#3
  | .rn => 0b001#3
  | .ru => 0b010#3
  | .rd => 0b011#3
  | .ind => 0b111#3

/-- The mode a code names; none for the reserved codes 4, 5, 6 (30_encoding.md R52, R53). -/
def Mode.ofCode (rm : BitVec 3) : Option Mode :=
  if rm = 0b000#3 then some .rtz
  else if rm = 0b001#3 then some .rn
  else if rm = 0b010#3 then some .ru
  else if rm = 0b011#3 then some .rd
  else if rm = 0b111#3 then some .ind
  else none

/-- The F2H operation a mode selects (30_encoding.md R55). -/
def Instr.f2hOf : Mode → Single → Instr
  | .rtz, f => .f2hRtz f
  | .rn, f => .f2hRn f
  | .ru, f => .f2hRu f
  | .rd, f => .f2hRd f
  | .ind, f => .f2hInd f

/-- The RND operation a mode selects (30_encoding.md R55, 42_rounding_unit.md R110). -/
def Instr.rndOf : Mode → Bool → Bool → Bool → Bool → Instr
  | .rtz, sgn, l, g, t => .rndRtz sgn l g t
  | .rn, sgn, l, g, t => .rndRn sgn l g t
  | .ru, sgn, l, g, t => .rndRu sgn l g t
  | .rd, sgn, l, g, t => .rndRd sgn l g t
  | .ind, sgn, l, g, t => .rndInd sgn l g t

/-! ## Decoding -/

/-- Why a request word has no meaning. -/
inductive DecodeError where
  /-- `rm` is 4, 5 or 6 (30_encoding.md R53), on the F2H channel or the RND interface (42_rounding_unit.md R117). -/
  | reservedMode (rm : BitVec 3)
  deriving DecidableEq, Repr

/-- The F2H channel: `{rm, f}` (30_encoding.md R51). -/
def decodeF2h (w : BitVec 35) : Except DecodeError Instr :=
  match Mode.ofCode (w.extractLsb' 32 3) with
  | some m => .ok (Instr.f2hOf m (w.extractLsb' 0 32))
  | none => .error (.reservedMode (w.extractLsb' 32 3))

/-- The RND interface: `{rm, s, l, g, t}` (30_encoding.md R54). -/
def decodeRnd (w : BitVec 7) : Except DecodeError Instr :=
  match Mode.ofCode (w.extractLsb' 4 3) with
  | some m => .ok (Instr.rndOf m (w.getLsbD 3) (w.getLsbD 2) (w.getLsbD 1) (w.getLsbD 0))
  | none => .error (.reservedMode (w.extractLsb' 4 3))

/-- The operation a request word asks for (30_encoding.md R50 to R56).
The only reserved encodings are three values of `rm` (R58). -/
def decode : Request → Except DecodeError Instr
  | .h2f w => .ok (.h2f w)
  | .f2h w => decodeF2h w
  | .rnd w => decodeRnd w
  | .norm16 w => .ok (.subNorm16 w)
  | .denorm32 w => .ok (.subDenorm32 (w.extractLsb' 23 8) (w.extractLsb' 0 23))

/-! ## Encoding -/

/-- The F2H request word `{rm, f}` (30_encoding.md R51). -/
def f2hWord (m : Mode) (f : Single) : BitVec 35 := m.code ++ f

/-- The RND request word `{rm, s, l, g, t}` (30_encoding.md R54). -/
def rndWord (m : Mode) (sgn l g t : Bool) : BitVec 7 :=
  m.code ++ BitVec.ofBool sgn ++ BitVec.ofBool l ++ BitVec.ofBool g ++ BitVec.ofBool t

/-- The request word of an operation, on its channel or interface (30_encoding.md R50, R51, R54). -/
def encode : Instr → Request
  | .h2f h => .h2f h
  | .f2hRtz f => .f2h (f2hWord .rtz f)
  | .f2hRn f => .f2h (f2hWord .rn f)
  | .f2hRu f => .f2h (f2hWord .ru f)
  | .f2hRd f => .f2h (f2hWord .rd f)
  | .f2hInd f => .f2h (f2hWord .ind f)
  | .rndRtz sgn l g t => .rnd (rndWord .rtz sgn l g t)
  | .rndRn sgn l g t => .rnd (rndWord .rn sgn l g t)
  | .rndRu sgn l g t => .rnd (rndWord .ru sgn l g t)
  | .rndRd sgn l g t => .rnd (rndWord .rd sgn l g t)
  | .rndInd sgn l g t => .rnd (rndWord .ind sgn l g t)
  | .subNorm16 m => .norm16 m
  | .subDenorm32 e8 m23 => .denorm32 (e8 ++ m23)

/-! ## The opcode table -/

/-- The width of a request word (30_encoding.md R57). -/
def Request.width : Request → Nat
  | .h2f _ => 16
  | .f2h _ => 35
  | .rnd _ => 7
  | .norm16 _ => 10
  | .denorm32 _ => 31

/-- A request word as a number, bit 0 the least significant. -/
def Request.toNat : Request → Nat
  | .h2f w => w.toNat
  | .f2h w => w.toNat
  | .rnd w => w.toNat
  | .norm16 w => w.toNat
  | .denorm32 w => w.toNat

/-- The part of a row of opcode_table.json that selects an operation on its channel or interface: the width, and the
value the bits from `selLo` up must hold (a mask that is a run of top bits, as every mask of the table is).
A row with no selecting bits has `selLo = width` and value 0. -/
structure TableRow where
  mnemonic : String
  width : Nat
  selLo : Nat
  selValue : Nat
  deriving DecidableEq, Repr

/-- The row of opcode_table.json an operation belongs to. -/
def Instr.row : Instr → TableRow
  | .h2f _ => ⟨"H2F", 16, 16, 0⟩
  | .f2hRtz _ => ⟨"F2H.RTZ", 35, 32, 0⟩
  | .f2hRn _ => ⟨"F2H.RN", 35, 32, 1⟩
  | .f2hRu _ => ⟨"F2H.RU", 35, 32, 2⟩
  | .f2hRd _ => ⟨"F2H.RD", 35, 32, 3⟩
  | .f2hInd _ => ⟨"F2H.IND", 35, 32, 7⟩
  | .rndRtz _ _ _ _ => ⟨"RND.RTZ", 7, 4, 0⟩
  | .rndRn _ _ _ _ => ⟨"RND.RN", 7, 4, 1⟩
  | .rndRu _ _ _ _ => ⟨"RND.RU", 7, 4, 2⟩
  | .rndRd _ _ _ _ => ⟨"RND.RD", 7, 4, 3⟩
  | .rndInd _ _ _ _ => ⟨"RND.IND", 7, 4, 7⟩
  | .subNorm16 _ => ⟨"SUB.NORM16", 10, 10, 0⟩
  | .subDenorm32 _ _ => ⟨"SUB.DENORM32", 31, 31, 0⟩

/-- A request word fits a row: it has the row's width and its selecting bits hold the row's value. -/
def TableRow.fits (r : TableRow) (q : Request) : Bool :=
  q.width == r.width && q.toNat >>> r.selLo == r.selValue

/-! ## The host's numbering -/

/-- The request that a word of opcode_table.json stands for.
The table's words carry no channel, so the channel is told by the number of bits: the row's width, or that width in
whole bytes; 16 bits are the H2F channel's (log 14).
None if the word has a bit above the row's width. -/
def requestOfTableWord (nbits w : Nat) : Option Request :=
  if nbits = 16 then if w < 2 ^ 16 then some (.h2f (BitVec.ofNat 16 w)) else none
  else if nbits = 35 ∨ nbits = 40 then if w < 2 ^ 35 then some (.f2h (BitVec.ofNat 35 w)) else none
  else if nbits = 7 ∨ nbits = 8 then if w < 2 ^ 7 then some (.rnd (BitVec.ofNat 7 w)) else none
  else if nbits = 10 then if w < 2 ^ 10 then some (.norm16 (BitVec.ofNat 10 w)) else none
  else if nbits = 31 ∨ nbits = 32 then if w < 2 ^ 31 then some (.denorm32 (BitVec.ofNat 31 w)) else none
  else none

/-- What the decoder reads from a word numbered as opcode_table.json numbers it. -/
def decodeTableWord (nbits w : Nat) : Option Instr :=
  match requestOfTableWord nbits w with
  | none => none
  | some q =>
    match decode q with
    | .ok i => some i
    | .error _ => none

end Sys2Proof
end

