-- ==== Sys2Proof/Config.lean ====
section
/-! DEFINITION. What an implementation fixes when the block is built (00_scope.md R5 to R7), and the free values:
constants without a body, so that nothing in a proof can know what they are. -/

namespace Sys2Proof

/-- How an exact tie is broken: to the value whose last bit is 0, or away from zero (00_scope.md R5, R6). -/
inductive Ties where
  | even
  | away
  deriving DecidableEq, Repr, Inhabited

/-- The build-time parameters of one instance of CORE (00_scope.md R5, R6, R7). None changes while CORE operates. -/
structure Build where
  /-- `NEAREST_TIES` (R5). -/
  nearestTies : Ties
  /-- `IND_TIES` (R6), independent of `NEAREST_TIES`. -/
  indTies : Ties
  /-- `LATENCY` (R7): cycles between a request and its response; 0 means combinational. -/
  latency : Nat
  deriving DecidableEq, Repr

namespace Config

/-- `NEAREST_TIES` of the instance that `State.reset` describes: open (00_scope.md R5; log 2). -/
opaque nearestTies : Ties

/-- `IND_TIES` of the instance that `State.reset` describes: open, with no default (00_scope.md R6; log 2). -/
opaque indTies : Ties

/-- `LATENCY` of the instance that `State.reset` describes: open (00_scope.md R7; log 2). -/
opaque latency : Nat

/-- The three parameters of the instance that `State.reset` describes. -/
def build : Build := { nearestTies := nearestTies, indTies := indTies, latency := latency }

/-- FREE VALUE: `h2f_data_o` in a cycle where `h2f_valid_o` is 0 (10_state.md R22; log 8). -/
opaque freeH2fDataO : Nat → BitVec 32

/-- FREE VALUE: `f2h_data_o` in a cycle where `f2h_valid_o` is 0 (10_state.md R22; log 8). -/
opaque freeF2hDataO : Nat → BitVec 16

/-- FREE VALUE: `f2h_ovf_o` in a cycle where `f2h_valid_o` is 0 (10_state.md R22; log 8). -/
opaque freeF2hOvfO : Nat → Bool

/-- FREE VALUE: `f2h_inx_o` in a cycle where `f2h_valid_o` is 0 (10_state.md R22; log 8). -/
opaque freeF2hInxO : Nat → Bool

/-- FREE VALUE: the response word of F2H for a request with a reserved mode code (30_encoding.md R53; log 5). -/
opaque freeF2hReserved : Nat → BitVec 18

/-- FREE VALUE: `rnd_inc` for a request with a reserved mode code (42_rounding_unit.md R117; log 5). -/
opaque freeRndReserved : Nat → Bool

/-- FREE VALUE: the response word of SUB.NORM16 for `m = 0` (43_subnormal_handler.md R121; log 6). -/
opaque freeNorm16 : Nat → BitVec 18

/-- FREE VALUE: the response word of SUB.DENORM32 for `E8 >= 143` (43_subnormal_handler.md R122; log 6). -/
opaque freeDenorm32 : Nat → BitVec 18

end Config

end Sys2Proof
end

