-- ==== Sys2Proof/Machine/State.lean ====
section
/-! DEFINITION. The state: the build parameters, the two channels with their pipelines and output ports (10_state.md
R17 to R21), the outputs of the internal interfaces (R24), what the environment will drive, and the free-value counter.
CORE has no register, no program counter, no memory and no mode (10_state.md R10 to R16, 20_memory.md R30,
60_exceptions.md R139), so State holds none. -/

namespace Sys2Proof.Machine

/-- A response of the F2H channel: data and flags (10_state.md R13, R19). -/
structure F2hResponse where
  h : Half
  ovf : Bool
  inx : Bool
  deriving DecidableEq, Repr

/-- A response of SUB.NORM16 (43_subnormal_handler.md R121). -/
structure Norm16Response where
  e8 : BitVec 8
  mn : BitVec 10
  deriving DecidableEq, Repr

/-- A response of SUB.DENORM32 (43_subnormal_handler.md R122). -/
structure Denorm32Response where
  ebase : BitVec 5
  kept : BitVec 11
  g : Bool
  t : Bool
  deriving DecidableEq, Repr

/-- One channel of CORE. `none` is a valid bit of 0, `some r` a valid bit of 1 with the response `r` (log 9). -/
structure Channel (α : Type) where
  /-- The unit's combinational answer to the request of the current cycle; none if there was no request. -/
  answer : Option α
  /-- The pipeline, stage 1 first, `LATENCY` stages (10_state.md R17). -/
  stages : List (Option α)
  /-- The output ports in the cycle last run (10_state.md R18, R19, R21). -/
  out : Option α
  deriving DecidableEq, Repr

/-- What the environment drives in one cycle: the input ports of R18, R19 and R20 of 10_state.md, and, for a bench that
drives RND or SUB alone, a request word on an internal interface (30_encoding.md R54; log 12). -/
structure Cycle where
  rst : Bool
  h2fValidI : Bool
  h2fDataI : BitVec 16
  f2hValidI : Bool
  f2hDataI : BitVec 32
  f2hRmI : BitVec 3
  rndReq : Option (BitVec 7)
  norm16Req : Option (BitVec 10)
  denorm32Req : Option (BitVec 31)
  deriving DecidableEq, Repr

/-- A cycle in which nothing is requested and `rst` is low. -/
def Cycle.idle : Cycle :=
  { rst := false, h2fValidI := false, h2fDataI := 0, f2hValidI := false, f2hDataI := 0, f2hRmI := 0,
    rndReq := none, norm16Req := none, denorm32Req := none }

/-- The whole state of the model (INVENTORY.md, State). -/
structure State where
  /-- The build parameters: constant, and read by the meanings as the spec asks (00_scope.md R5, R6, R7; log 2). -/
  build : Build
  /-- The H2F channel (10_state.md R18). -/
  h2f : Channel Single
  /-- The F2H channel (10_state.md R19). -/
  f2h : Channel F2hResponse
  /-- `rnd_inc` of the RND interface this cycle (42_rounding_unit.md R110); none if no request stood there. -/
  rndInc : Option Bool
  /-- `sub_e8`, `sub_mn` this cycle (43_subnormal_handler.md R121). -/
  norm16 : Option Norm16Response
  /-- `sub_ebase`, `sub_kept`, `sub_g`, `sub_t` this cycle (43_subnormal_handler.md R122). -/
  denorm32 : Option Denorm32Response
  /-- What the environment drives, next cycle first; idle cycles after the last (log 3). -/
  stimulus : List Cycle
  /-- The model's own counter, the argument of the free values (log 7). -/
  freeCount : Nat
  deriving DecidableEq, Repr

/-- Why a step faults: no reason exists, CORE has no fault outcome (60_exceptions.md R130, R141; log 15). Safe. -/
inductive Fault where
  deriving DecidableEq, Repr

/-- Why a step is refused. -/
inductive Refusal where
  /-- Raised by `exec` for an instruction that has no meaning yet (none is left). Safe. -/
  | notModelled (mnemonic : String)
  /-- Raised by `serveOne`, of one transaction, for a request whose `rm` is 4, 5 or 6: a model gives it no meaning
  (30_encoding.md R53, 42_rounding_unit.md R117, 60_exceptions.md R141; log 5). No step ends in it: the cycle goes on and
  the due response is a free value (`serve`). Safe. -/
  | reservedMode (rm : BitVec 3)
  deriving DecidableEq, Repr

/-- A channel after reset: every valid bit 0, no response pending (10_state.md R17). -/
def Channel.afterReset (α : Type) (latency : Nat) : Channel α :=
  { answer := none, stages := List.replicate latency none, out := none }

/-- The state right after reset (10_state.md R17, 70_reset_and_hazards.md R150, R151). The parameters are the open
constants of Config: no default is assumed (log 2). -/
def State.reset : State :=
  { build := Config.build
    h2f := Channel.afterReset Single Config.build.latency
    f2h := Channel.afterReset F2hResponse Config.build.latency
    rndInc := none
    norm16 := none
    denorm32 := none
    stimulus := []
    freeCount := 0 }

end Sys2Proof.Machine
end

