-- ==== Sys2Proof/Machine/Operands.lean ====
section
/-! DEFINITION. Operand assembly: the fields of the two formats (30_encoding.md R40, R45, R56), packing, classification
(R41 to R43, R46), the unpacked significand (41_f2h.md R80), leading zeros, and the response words (R50, R51, R54). -/

namespace Sys2Proof.Machine

/-! ## binary16 -/

/-- `S = h[15]` (30_encoding.md R40). -/
def sign16 (h : Half) : Bool := h.getLsbD 15

/-- `E = h[14:10]` (30_encoding.md R40). -/
def exp16 (h : Half) : BitVec 5 := h.extractLsb' 10 5

/-- `M = h[9:0]` (30_encoding.md R40). -/
def man16 (h : Half) : BitVec 10 := h.extractLsb' 0 10

/-- The magnitude `h[14:0]` (30_encoding.md R48, 00_scope.md glossary). -/
def mag16 (h : Half) : BitVec 15 := h.extractLsb' 0 15

/-- `{S, E, M}` (30_encoding.md R40). -/
def pack16 (s : Bool) (e : BitVec 5) (m : BitVec 10) : Half := BitVec.ofBool s ++ e ++ m

/-- `{S, mag}` (41_f2h.md R85, R86). -/
def packMag16 (s : Bool) (mag : BitVec 15) : Half := BitVec.ofBool s ++ mag

/-! ## binary32 -/

/-- `S = f[31]` (30_encoding.md R45). -/
def sign32 (f : Single) : Bool := f.getLsbD 31

/-- `E8 = f[30:23]` (30_encoding.md R45). -/
def exp32 (f : Single) : BitVec 8 := f.extractLsb' 23 8

/-- `M23 = f[22:0]` (30_encoding.md R45). -/
def man32 (f : Single) : BitVec 23 := f.extractLsb' 0 23

/-- `{S, E8, M23}` (30_encoding.md R45). -/
def pack32 (s : Bool) (e8 : BitVec 8) (m23 : BitVec 23) : Single := BitVec.ofBool s ++ e8 ++ m23

/-- `{M, 13'b0}`: a binary16 mantissa left-justified in the binary32 field (40_h2f.md R71). -/
def leftJustify (m : BitVec 10) : BitVec 23 := m ++ 0#13

/-! ## Classes -/

/-- The five classes of a floating-point word (30_encoding.md R41, R43, R46). -/
inductive FpClass where
  | zero
  | subnormal
  | normal
  | infinite
  | nan
  deriving DecidableEq, Repr

/-- `class16` (30_encoding.md R43). -/
def class16 (h : Half) : FpClass :=
  if exp16 h = 0 ∧ man16 h = 0 then .zero
  else if exp16 h = 0 ∧ man16 h ≠ 0 then .subnormal
  else if exp16 h = 31 ∧ man16 h = 0 then .infinite
  else if exp16 h = 31 ∧ man16 h ≠ 0 then .nan
  else .normal

/-- `class32` (30_encoding.md R46). -/
def class32 (f : Single) : FpClass :=
  if exp32 f = 0 ∧ man32 f = 0 then .zero
  else if exp32 f = 0 ∧ man32 f ≠ 0 then .subnormal
  else if exp32 f = 255 ∧ man32 f = 0 then .infinite
  else if exp32 f = 255 ∧ man32 f ≠ 0 then .nan
  else .normal

/-- A quiet binary16 NaN: the top mantissa bit is 1 (30_encoding.md R42). -/
def quiet16 (h : Half) : Bool := class16 h == .nan && (man16 h).getLsbD 9

/-- A signaling binary16 NaN: the top mantissa bit is 0 (30_encoding.md R42). -/
def signaling16 (h : Half) : Bool := class16 h == .nan && !(man16 h).getLsbD 9

/-- A quiet binary32 NaN (30_encoding.md R46). -/
def quiet32 (f : Single) : Bool := class32 f == .nan && (man32 f).getLsbD 22

/-- A signaling binary32 NaN (30_encoding.md R46). -/
def signaling32 (f : Single) : Bool := class32 f == .nan && !(man32 f).getLsbD 22

/-! ## Integers the rules compute with -/

/-- `sig`: the 24-bit significand `{E8 != 0, M23}` as a natural number (41_f2h.md R80, 43_subnormal_handler.md R122). -/
def significand (e8 : BitVec 8) (m23 : BitVec 23) : Nat :=
  (if e8 = 0 then 0 else 2 ^ 23) + m23.toNat

/-- The unbiased exponent `e` of a finite source (41_f2h.md R80): `E8 - 127`, and -126 when `E8 = 0`. -/
def unbiasedExp (e8 : BitVec 8) : Int :=
  if e8 = 0 then -126 else (e8.toNat : Int) - 127

/-- The number of zeros above the first one among the bits `n-1` down to 0 of `m`. -/
def leadingZerosBelow (m : BitVec 10) : Nat → Nat
  | 0 => 0
  | n + 1 => if m.getLsbD n then 0 else leadingZerosBelow m n + 1

/-- `clz10` (00_scope.md section 6): 0 when `m[9] = 1`, 9 when `m = 1`, 10 when `m = 0`. -/
def clz10 (m : BitVec 10) : Nat := leadingZerosBelow m 10

/-! ## Response words -/

/-- The 18-bit F2H response word `{ovf, inx, h}` (30_encoding.md R51). -/
def F2hResponse.word (r : F2hResponse) : BitVec 18 := BitVec.ofBool r.ovf ++ BitVec.ofBool r.inx ++ r.h

/-- The response with a given word. -/
def F2hResponse.ofWord (w : BitVec 18) : F2hResponse :=
  { h := w.extractLsb' 0 16, ovf := w.getLsbD 17, inx := w.getLsbD 16 }

/-- The 1-bit RND response word `inc` (30_encoding.md R54). -/
def rndResponseWord (inc : Bool) : BitVec 1 := BitVec.ofBool inc

/-- The 18-bit SUB.NORM16 response word `{e8, mn}` (30_encoding.md R54). -/
def Norm16Response.word (r : Norm16Response) : BitVec 18 := r.e8 ++ r.mn

/-- The SUB.NORM16 response that an 18-bit word holds. -/
def Norm16Response.ofWord (w : BitVec 18) : Norm16Response :=
  { e8 := w.extractLsb' 10 8, mn := w.extractLsb' 0 10 }

/-- The 18-bit SUB.DENORM32 response word `{ebase, kept, g, t}` (30_encoding.md R54). -/
def Denorm32Response.word (r : Denorm32Response) : BitVec 18 :=
  r.ebase ++ r.kept ++ BitVec.ofBool r.g ++ BitVec.ofBool r.t

/-- The SUB.DENORM32 response that an 18-bit word holds. -/
def Denorm32Response.ofWord (w : BitVec 18) : Denorm32Response :=
  { ebase := w.extractLsb' 13 5, kept := w.extractLsb' 2 11, g := w.getLsbD 1, t := w.getLsbD 0 }

end Sys2Proof.Machine
end

