-- ==== Sys2Proof/Machine/Flags.lean ====
section
/-! DEFINITION. The two flags of an F2H response (41_f2h.md R88). They are computed with the response and stored nowhere
(10_state.md R13). -/

namespace Sys2Proof.Machine

/-- `inx` on the general path: something was discarded (41_f2h.md R86, R88). -/
def inexactFlag (g t : Bool) : Bool := g || t

/-- `ovf` on the general path: the magnitude reached infinity (41_f2h.md R86, R88). -/
def overflowFlag (mag : BitVec 15) : Bool := mag == 0x7C00#15

end Sys2Proof.Machine
end

