-- ==== Sys2Proof/Machine/Ops.lean ====
section
/-! DEFINITION. The named operations over State: answering a request, the clock edge and the reset of a channel
(10_state.md R17, R21; 70_reset_and_hazards.md R150), the cycle's beginning and end, and the output pins (R18, R19, R22).
There are no memory, register, exception-entry or exception-return operations, because CORE has no memory
(20_memory.md R30), no register (10_state.md R10) and no trap (60_exceptions.md R130, R135). -/

namespace Sys2Proof.Machine

/-! ## Answers: the combinational outputs of the units for the request of this cycle -/

/-- The state with `f` as the H2F unit's answer. -/
def State.setH2fAnswer (s : State) (f : Single) : State :=
  { s with h2f := { s.h2f with answer := some f } }

/-- The state with `r` as the F2H unit's answer. -/
def State.setF2hAnswer (s : State) (r : F2hResponse) : State :=
  { s with f2h := { s.f2h with answer := some r } }

/-- The state with `inc` on the RND interface. -/
def State.setRndInc (s : State) (inc : Bool) : State :=
  { s with rndInc := some inc }

/-- The state with `r` on the SUB.NORM16 interface. -/
def State.setNorm16 (s : State) (r : Norm16Response) : State :=
  { s with norm16 := some r }

/-- The state with `r` on the SUB.DENORM32 interface. -/
def State.setDenorm32 (s : State) (r : Denorm32Response) : State :=
  { s with denorm32 := some r }

/-- The state with the free-value counter advanced (log 7). -/
def State.advanceFree (s : State) : State :=
  { s with freeCount := s.freeCount + 1 }

/-- H2F answers a request (10_state.md R18). -/
def answerH2f (f : Single) (s : State) : Host.Outcome State Fault Refusal :=
  .next (s.setH2fAnswer f)

/-- F2H answers a request (10_state.md R19). -/
def answerF2h (r : F2hResponse) (s : State) : Host.Outcome State Fault Refusal :=
  .next (s.setF2hAnswer r)

/-- RND answers a request on its own interface (42_rounding_unit.md R110). -/
def answerRnd (inc : Bool) (s : State) : Host.Outcome State Fault Refusal :=
  .next (s.setRndInc inc)

/-- SUB.NORM16 answers a request on its own interface (43_subnormal_handler.md R121). -/
def answerNorm16 (r : Norm16Response) (s : State) : Host.Outcome State Fault Refusal :=
  .next (s.setNorm16 r)

/-- SUB.NORM16 answers a request that breaks its precondition: "For `m = 0` the outputs are unspecified"
(43_subnormal_handler.md R121; log 6). -/
def answerNorm16Free (s : State) : Host.Outcome State Fault Refusal :=
  .next (s.setNorm16 (Norm16Response.ofWord (Config.freeNorm16 s.freeCount))).advanceFree

/-- SUB.DENORM32 answers a request on its own interface (43_subnormal_handler.md R122). -/
def answerDenorm32 (r : Denorm32Response) (s : State) : Host.Outcome State Fault Refusal :=
  .next (s.setDenorm32 r)

/-- SUB.DENORM32 answers a request that breaks its precondition: "For `E8 >= 143` the outputs are unspecified"
(43_subnormal_handler.md R122; log 6). -/
def answerDenorm32Free (s : State) : Host.Outcome State Fault Refusal :=
  .next (s.setDenorm32 (Denorm32Response.ofWord (Config.freeDenorm32 s.freeCount))).advanceFree

/-- The unit answers a request whose mode code is reserved: a response is due like any other and its values are
unspecified (30_encoding.md R53, 42_rounding_unit.md R117; log 5). Requests of the other interfaces carry no mode code. -/
def State.answerReserved (q : Request) (s : State) : State :=
  match q with
  | .h2f _ => s
  | .f2h _ => s.setF2hAnswer (F2hResponse.ofWord (Config.freeF2hReserved s.freeCount))
  | .rnd _ => s.setRndInc (Config.freeRndReserved s.freeCount)
  | .norm16 _ => s
  | .denorm32 _ => s

/-! ## One channel through a cycle -/

/-- A new cycle: no request has been answered yet. -/
def Channel.clear {α : Type} (c : Channel α) : Channel α :=
  { c with answer := none }

/-- The output of the cycle and the clock edge that ends it (10_state.md R21): the last stage drives the output ports,
every stage moves on by one, and the answer enters stage 1. With no stage the answer drives the output ports itself. -/
def Channel.clock {α : Type} (c : Channel α) : Channel α :=
  { answer := c.answer
    stages := (c.answer :: c.stages).dropLast
    out := c.stages.getLastD c.answer }

/-- The clock edge of a cycle in which `rst` is 1: every valid bit goes to 0 and no response leaves
(70_reset_and_hazards.md R150). -/
def Channel.reset {α : Type} (c : Channel α) : Channel α :=
  { answer := none
    stages := c.stages.map (fun _ => none)
    out := none }

/-! ## The whole block through a cycle -/

/-- What the environment drives in the coming cycle: the head of the stimulus, an idle cycle after the last (log 3). -/
def State.nextCycle (s : State) : Cycle := s.stimulus.headD Cycle.idle

/-- The block has a reset port: only when `LATENCY > 0` (10_state.md R20). -/
def Build.hasReset (b : Build) : Bool := b.latency != 0

/-- `rst` reaches the block in the coming cycle (10_state.md R20; log 11). -/
def State.inReset (s : State) : Bool := s.nextCycle.rst && Build.hasReset s.build

/-- The requests on the two channels in a cycle: a channel's inputs count only when its valid input is 1
(10_state.md R21, R22). -/
def Cycle.channelRequests (c : Cycle) : List Request :=
  (if c.h2fValidI then [.h2f c.h2fDataI] else []) ++
  (if c.f2hValidI then [.f2h (c.f2hRmI ++ c.f2hDataI)] else [])

/-- The requests on the internal interfaces in a cycle (30_encoding.md R54; log 12). -/
def Cycle.internalRequests (c : Cycle) : List Request :=
  (c.rndReq.map Request.rnd).toList ++ (c.norm16Req.map Request.norm16).toList ++
  (c.denorm32Req.map Request.denorm32).toList

/-- The requests that are answered in the coming cycle, in the order in which the model serves them (log 13).
While `rst` is 1 the requests on the channels are discarded (70_reset_and_hazards.md R150). -/
def State.requests (s : State) : List Request :=
  (if s.inReset then [] else s.nextCycle.channelRequests) ++ s.nextCycle.internalRequests

/-- The cycle begins: the environment's inputs are taken and nothing is answered yet. -/
def State.beginCycle (s : State) : State :=
  { s with
    h2f := s.h2f.clear
    f2h := s.f2h.clear
    rndInc := none
    norm16 := none
    denorm32 := none
    stimulus := s.stimulus.tail }

/-- The cycle ends with the clock edge, or with the reset edge when `rst` is 1. -/
def State.endCycle (rst : Bool) (s : State) : State :=
  { s with
    h2f := if rst then s.h2f.reset else s.h2f.clock
    f2h := if rst then s.f2h.reset else s.f2h.clock
    freeCount := s.freeCount + 1 }

/-- What becomes of the end of a cycle when its requests were served. -/
def endOutcome (rst : Bool) : Host.Outcome State Fault Refusal → Host.Outcome State Fault Refusal
  | .next s => .next (s.endCycle rst)
  | .fault r => .fault r
  | .refused r => .refused r

/-! ## The output pins of the cycle last run (10_state.md R18, R19)

Where a channel's valid output is 0 its data and flag pins are free values (R22; log 8). -/

/-- `h2f_valid_o`. -/
def State.h2fValidO (s : State) : Bool := s.h2f.out.isSome

/-- `h2f_data_o`. -/
def State.h2fDataO (s : State) : BitVec 32 := s.h2f.out.getD (Config.freeH2fDataO s.freeCount)

/-- `f2h_valid_o`. -/
def State.f2hValidO (s : State) : Bool := s.f2h.out.isSome

/-- `f2h_data_o`. -/
def State.f2hDataO (s : State) : BitVec 16 := (s.f2h.out.map F2hResponse.h).getD (Config.freeF2hDataO s.freeCount)

/-- `f2h_ovf_o`. -/
def State.f2hOvfO (s : State) : Bool := (s.f2h.out.map F2hResponse.ovf).getD (Config.freeF2hOvfO s.freeCount)

/-- `f2h_inx_o`. -/
def State.f2hInxO (s : State) : Bool := (s.f2h.out.map F2hResponse.inx).getD (Config.freeF2hInxO s.freeCount)

end Sys2Proof.Machine
end

