-- ==== Sys2Proof/Machine/Rounding.lean ====
section
/-! DEFINITION. Unit RND, the rounding decision (42_rounding_unit.md), and the meanings of its five operations. -/

namespace Sys2Proof.Machine

/-- Whether an exact tie goes up (00_scope.md R5, R6). -/
def tieUp (ties : Ties) (l : Bool) : Bool :=
  match ties with
  | .even => l
  | .away => true

/-- To nearest: above half goes up, an exact tie by the tie rule: `g & (t | l)` under `EVEN`, `g` under `AWAY`
(42_rounding_unit.md R112, R115). -/
def incNearest (ties : Ties) (l g t : Bool) : Bool := g && (t || tieUp ties l)

/-- `RND` (42_rounding_unit.md R110 to R115): 1 when the truncated magnitude is to be increased by one. -/
def rndUnit (b : Build) (m : Mode) (sgn l g t : Bool) : Bool :=
  match m with
  | .rtz => false
  | .rn => incNearest b.nearestTies l g t
  | .ru => !sgn && (g || t)
  | .rd => sgn && (g || t)
  | .ind => incNearest b.indTies l g t

/-- RND.RTZ (42_rounding_unit.md R111). -/
def execRndRtz (sgn l g t : Bool) (s : State) : Host.Outcome State Fault Refusal :=
  answerRnd (rndUnit s.build .rtz sgn l g t) s

/-- RND.RN (42_rounding_unit.md R112). -/
def execRndRn (sgn l g t : Bool) (s : State) : Host.Outcome State Fault Refusal :=
  answerRnd (rndUnit s.build .rn sgn l g t) s

/-- RND.RU (42_rounding_unit.md R113). -/
def execRndRu (sgn l g t : Bool) (s : State) : Host.Outcome State Fault Refusal :=
  answerRnd (rndUnit s.build .ru sgn l g t) s

/-- RND.RD (42_rounding_unit.md R114). -/
def execRndRd (sgn l g t : Bool) (s : State) : Host.Outcome State Fault Refusal :=
  answerRnd (rndUnit s.build .rd sgn l g t) s

/-- RND.IND (42_rounding_unit.md R115). -/
def execRndInd (sgn l g t : Bool) (s : State) : Host.Outcome State Fault Refusal :=
  answerRnd (rndUnit s.build .ind sgn l g t) s

end Sys2Proof.Machine
end

