-- ==== Sys2Proof/Machine/Subnormal.lean ====
section
/-! DEFINITION. Unit SUB, the subnormal handler (43_subnormal_handler.md), and the meanings of its two operations. -/

namespace Sys2Proof.Machine

/-- `SUB.NORM16` for `m != 0` (43_subnormal_handler.md R121): the leading one is shifted out to the left. -/
def norm16Unit (m : BitVec 10) : Norm16Response :=
  { e8 := 112#8 - BitVec.ofNat 8 (clz10 m)
    mn := m <<< (clz10 m + 1) }

/-- The alignment shift `sh` (43_subnormal_handler.md R122): 13 for a normal result, `126 - max(E8, 1)` below. -/
def alignShift (e8 : BitVec 8) : Nat :=
  if 113 ≤ e8.toNat then 13 else 126 - max e8.toNat 1

/-- `SUB.DENORM32` for `E8 <= 142` (43_subnormal_handler.md R122), computed on integers: `sig` is cut at the shift
into the kept bits, the guard bit and the sticky bit. -/
def denorm32Unit (e8 : BitVec 8) (m23 : BitVec 23) : Denorm32Response :=
  { ebase := if 113 ≤ e8.toNat then BitVec.ofNat 5 (e8.toNat - 113) else 0#5
    kept := BitVec.ofNat 11 (significand e8 m23 / 2 ^ alignShift e8)
    g := significand e8 m23 / 2 ^ (alignShift e8 - 1) % 2 == 1
    t := significand e8 m23 % 2 ^ (alignShift e8 - 1) != 0 }

/-- SUB.NORM16 (43_subnormal_handler.md R121); the outputs for `m = 0` are free values (log 6). -/
def execSubNorm16 (m : BitVec 10) (s : State) : Host.Outcome State Fault Refusal :=
  if m = 0#10 then answerNorm16Free s else answerNorm16 (norm16Unit m) s

/-- SUB.DENORM32 (43_subnormal_handler.md R122); the outputs for `E8 >= 143` are free values (log 6). -/
def execSubDenorm32 (e8 : BitVec 8) (m23 : BitVec 23) (s : State) : Host.Outcome State Fault Refusal :=
  if 143 ≤ e8.toNat then answerDenorm32Free s else answerDenorm32 (denorm32Unit e8 m23) s

end Sys2Proof.Machine
end

