-- ==== Sys2Proof/Machine/Narrow.lean ====
section
/-! DEFINITION. Unit F2H, the single-to-half conversion with rounding (41_f2h.md), and the meanings of its five
operations. -/

namespace Sys2Proof.Machine

/-- The kept payload of a NaN (41_f2h.md R83): the top ten mantissa bits, with bit 8 forced where they are all 0. -/
def nanPayload (m23 : BitVec 23) : BitVec 10 :=
  if m23.extractLsb' 13 10 = 0#10 then 0x100#10 else m23.extractLsb' 13 10

/-- NaN source (41_f2h.md R83). -/
def f2hNan (s : Bool) (m23 : BitVec 23) : F2hResponse :=
  { h := pack16 s 31#5 (nanPayload m23), ovf := false, inx := false }

/-- Infinite source (41_f2h.md R84). -/
def f2hInf (s : Bool) : F2hResponse :=
  { h := pack16 s 31#5 0#10, ovf := false, inx := false }

/-- Whether an overflow by exponent goes to infinity (41_f2h.md R85). -/
def overflowToInf (m : Mode) (s : Bool) : Bool :=
  match m with
  | .rtz => false
  | .rn => true
  | .ru => !s
  | .rd => s
  | .ind => true

/-- Overflow by exponent, `143 <= E8 <= 254` (41_f2h.md R85). -/
def f2hOverflow (m : Mode) (s : Bool) : F2hResponse :=
  { h := packMag16 s (if overflowToInf m s then 0x7C00#15 else 0x7BFF#15), ovf := true, inx := true }

/-- The 15-bit magnitude of the general path (41_f2h.md R86): the carry of the increment may run into the exponent. -/
def roundedMag (d : Denorm32Response) (inc : Bool) : BitVec 15 :=
  (d.ebase.setWidth 15 <<< 10) + d.kept.setWidth 15 + (BitVec.ofBool inc).setWidth 15

/-- The general path after alignment: round, carry, flags (41_f2h.md R86). -/
def f2hRounded (b : Build) (m : Mode) (s : Bool) (d : Denorm32Response) : F2hResponse :=
  let mag := roundedMag d (rndUnit b m s (d.kept.getLsbD 0) d.g d.t)
  { h := packMag16 s mag, ovf := overflowFlag mag, inx := inexactFlag d.g d.t }

/-- `F2H` (41_f2h.md R81). -/
def f2hUnit (b : Build) (m : Mode) (f : Single) : F2hResponse :=
  if exp32 f = 255#8 ∧ man32 f ≠ 0#23 then f2hNan (sign32 f) (man32 f)
  else if exp32 f = 255#8 then f2hInf (sign32 f)
  else if 143 ≤ (exp32 f).toNat then f2hOverflow m (sign32 f)
  else f2hRounded b m (sign32 f) (denorm32Unit (exp32 f) (man32 f))

/-- F2H.RTZ (41_f2h.md R91). -/
def execF2hRtz (f : Single) (s : State) : Host.Outcome State Fault Refusal :=
  answerF2h (f2hUnit s.build .rtz f) s

/-- F2H.RN (41_f2h.md R92). -/
def execF2hRn (f : Single) (s : State) : Host.Outcome State Fault Refusal :=
  answerF2h (f2hUnit s.build .rn f) s

/-- F2H.RU (41_f2h.md R93). -/
def execF2hRu (f : Single) (s : State) : Host.Outcome State Fault Refusal :=
  answerF2h (f2hUnit s.build .ru f) s

/-- F2H.RD (41_f2h.md R94). -/
def execF2hRd (f : Single) (s : State) : Host.Outcome State Fault Refusal :=
  answerF2h (f2hUnit s.build .rd f) s

/-- F2H.IND (41_f2h.md R95). -/
def execF2hInd (f : Single) (s : State) : Host.Outcome State Fault Refusal :=
  answerF2h (f2hUnit s.build .ind f) s

end Sys2Proof.Machine
end

