-- ==== Sys2Proof/Machine/Widen.lean ====
section
/-! DEFINITION. Unit H2F, the half-to-single conversion (40_h2f.md), and the meaning of its operation. -/

namespace Sys2Proof.Machine

/-- `1 <= E <= 30` (40_h2f.md R71). -/
def h2fNormal (s : Bool) (e : BitVec 5) (m : BitVec 10) : Single :=
  pack32 s (e.setWidth 8 + 112#8) (leftJustify m)

/-- Infinity or NaN, `E = 31` (40_h2f.md R72): payload and quiet bit kept, nothing quieted. -/
def h2fSpecial (s : Bool) (m : BitVec 10) : Single :=
  pack32 s 255#8 (leftJustify m)

/-- Zero, `E = 0` and `M = 0` (40_h2f.md R73). -/
def h2fZero (s : Bool) : Single := pack32 s 0#8 0#23

/-- Subnormal, `E = 0` and `M != 0` (40_h2f.md R74). -/
def h2fSubnormal (s : Bool) (m : BitVec 10) : Single :=
  pack32 s (norm16Unit m).e8 (leftJustify (norm16Unit m).mn)

/-- `H2F` (40_h2f.md R70). -/
def h2fUnit (h : Half) : Single :=
  if exp16 h = 31#5 then h2fSpecial (sign16 h) (man16 h)
  else if exp16 h = 0#5 ∧ man16 h = 0#10 then h2fZero (sign16 h)
  else if exp16 h = 0#5 then h2fSubnormal (sign16 h) (man16 h)
  else h2fNormal (sign16 h) (exp16 h) (man16 h)

/-- H2F (40_h2f.md R70). -/
def execH2f (h : Half) (s : State) : Host.Outcome State Fault Refusal :=
  answerH2f (h2fUnit h) s

end Sys2Proof.Machine
end

