-- ==== Sys2Proof/Machine/Dispatch.lean ====
section
/-! DEFINITION. One arm per operation of CORE (30_encoding.md R55). -/

namespace Sys2Proof.Machine

def exec (i : Instr) (s : State) : Host.Outcome State Fault Refusal :=
  match i with
  | .h2f h => Sys2Proof.Machine.execH2f h s
  | .f2hRtz f => Sys2Proof.Machine.execF2hRtz f s
  | .f2hRn f => Sys2Proof.Machine.execF2hRn f s
  | .f2hRu f => Sys2Proof.Machine.execF2hRu f s
  | .f2hRd f => Sys2Proof.Machine.execF2hRd f s
  | .f2hInd f => Sys2Proof.Machine.execF2hInd f s
  | .rndRtz sgn l g t => Sys2Proof.Machine.execRndRtz sgn l g t s
  | .rndRn sgn l g t => Sys2Proof.Machine.execRndRn sgn l g t s
  | .rndRu sgn l g t => Sys2Proof.Machine.execRndRu sgn l g t s
  | .rndRd sgn l g t => Sys2Proof.Machine.execRndRd sgn l g t s
  | .rndInd sgn l g t => Sys2Proof.Machine.execRndInd sgn l g t s
  | .subNorm16 m => Sys2Proof.Machine.execSubNorm16 m s
  | .subDenorm32 e8 m23 => Sys2Proof.Machine.execSubDenorm32 e8 m23 s

end Sys2Proof.Machine
end

