-- ==== Sys2Proof/Machine/Serve.lean ====
section
/-! DEFINITION. Serving the requests of a cycle: each is decoded and run (10_state.md R12, R21), and placing a request
where the next cycle takes it. -/

namespace Sys2Proof.Machine

/-- The refusal of a request word the decoder rejects (30_encoding.md R53; log 5). -/
def refusalOf : DecodeError → Refusal
  | .reservedMode rm => .reservedMode rm

/-- One transaction: decode the request and run it. A request with a reserved mode code is refused, that transaction and
no other (93_implementation_defined.md U3, U9). -/
def serveOne (q : Request) (s : State) : Host.Outcome State Fault Refusal :=
  match decode q with
  | .ok i => exec i s
  | .error e => .refused (refusalOf e)

/-- Serve the requests of a cycle one after the other. A refused transaction has no meaning of its own, and CORE goes on:
its response is due with unspecified values, and no other transaction is affected (30_encoding.md R53, 10_state.md R23). -/
def serve : List Request → State → Host.Outcome State Fault Refusal
  | [], s => .next s
  | q :: qs, s =>
    match serveOne q s with
    | .next t => serve qs t
    | .fault r => .fault r
    | .refused (.reservedMode _) => serve qs (s.answerReserved q)
    | .refused r => .refused r

/-- The cycle in which exactly one request is presented, `rst` low. -/
def Cycle.presenting : Request → Cycle
  | .h2f w => { Cycle.idle with h2fValidI := true, h2fDataI := w }
  | .f2h w => { Cycle.idle with f2hValidI := true, f2hDataI := w.extractLsb' 0 32, f2hRmI := w.extractLsb' 32 3 }
  | .rnd w => { Cycle.idle with rndReq := some w }
  | .norm16 w => { Cycle.idle with norm16Req := some w }
  | .denorm32 w => { Cycle.idle with denorm32Req := some w }

/-- The state with `q` as the only request of the coming cycle; later cycles as they were. -/
def State.present (s : State) (q : Request) : State :=
  { s with stimulus := Cycle.presenting q :: s.stimulus.tail }

/-- One cycle (10_state.md R21; 70_reset_and_hazards.md R150): take the inputs, serve the requests, end the cycle. -/
def runCycle (s : State) : Host.Outcome State Fault Refusal :=
  endOutcome s.inReset (serve s.requests s.beginCycle)

/-- Place a word of opcode_table.json as the next request (log 4); a word that is no request word places nothing. -/
def State.placeTableWord (s : State) (nbits w : Nat) : State :=
  match requestOfTableWord nbits w with
  | some q => s.present q
  | none => s

end Sys2Proof.Machine
end

