-- ==== Sys2Proof/Machine/Step.lean ====
section
/-! DEFINITION. One step is one cycle of CORE (log 1, log 3). -/

namespace Sys2Proof.Machine

/-- One step: one cycle, with the inputs at the head of the stimulus. -/
def step : State → Host.Outcome State Fault Refusal := fun s => runCycle s

/-- The state whose next step takes the word `w` of opcode_table.json as its only request (log 4, log 14). -/
def State.withFetchWord (s : State) (nbits w : Nat) : State := s.placeTableWord nbits w

end Sys2Proof.Machine
end

