-- ==== Sys2Proof/Machine/Value.lean ====
section
/-! DEFINITION. What a pattern stands for (30_encoding.md R44, R47), as an exact integer: every finite binary16 and
binary32 value is a whole number of `2^-149`, the smallest binary32 subnormal (log 17). -/

namespace Sys2Proof.Machine

/-- An extended real number, or none: the sign of a zero is kept (30_encoding.md R44). -/
inductive Ext where
  | nan
  | inf (neg : Bool)
  /-- `(-1)^neg * mag * 2^(-149)` -/
  | fin (neg : Bool) (mag : Nat)
  deriving DecidableEq, Repr

/-- A finite binary16 magnitude in units of `2^-24` (30_encoding.md R44): `M` when `E = 0`, else `(1024 + M) * 2^(E-1)`. -/
def units16 (e m : Nat) : Nat := if e = 0 then m else (1024 + m) * 2 ^ (e - 1)

/-- `value16` (30_encoding.md R44). -/
def value16 (h : Half) : Ext :=
  if exp16 h = 31#5 ∧ man16 h ≠ 0#10 then .nan
  else if exp16 h = 31#5 then .inf (sign16 h)
  else .fin (sign16 h) (units16 (exp16 h).toNat (man16 h).toNat * 2 ^ 125)

/-- `value32` (30_encoding.md R47): `M23` units when `E8 = 0`, else `(2^23 + M23) * 2^(E8 - 1)` units. -/
def value32 (f : Single) : Ext :=
  if exp32 f = 255#8 ∧ man32 f ≠ 0#23 then .nan
  else if exp32 f = 255#8 then .inf (sign32 f)
  else .fin (sign32 f) (significand (exp32 f) (man32 f) * 2 ^ ((exp32 f).toNat - 1))

/-- The signed number of units of a finite value. -/
def signedUnits (neg : Bool) (mag : Nat) : Int := if neg then -(mag : Int) else (mag : Int)

/-- The order of the extended reals; a NaN is below and above nothing (41_f2h.md R96). -/
def Ext.le : Ext → Ext → Bool
  | .nan, _ => false
  | _, .nan => false
  | .inf true, _ => true
  | _, .inf false => true
  | .inf false, _ => false
  | _, .inf true => false
  | .fin n a, .fin n' a' => decide (signedUnits n a ≤ signedUnits n' a')

/-- The absolute value (41_f2h.md R96 (c)). -/
def Ext.abs : Ext → Ext
  | .nan => .nan
  | .inf _ => .inf false
  | .fin _ a => .fin false a

/-- The magnitude of a finite value in units of `2^-149`; 0 for the rest. -/
def Ext.units : Ext → Nat
  | .fin _ a => a
  | _ => 0

/-- A finite value. -/
def Ext.isFinite : Ext → Bool
  | .fin _ _ => true
  | _ => false

end Sys2Proof.Machine
end

