-- ==== Sys2Proof/Machine/Contract.lean ====
section
/-! DEFINITION. The value contract of F2H (41_f2h.md R82), written without the conversion: the two bracketing
magnitudes of a finite source, and which of them each mode picks. -/

namespace Sys2Proof.Machine

/-- The value of a 15-bit magnitude up to 0x7C00 in units of `2^-149`; infinity (0x7C00) counts as `2^16`, as R82 has
it for the distance. -/
def magUnits (r : Nat) : Nat := units16 (r / 1024) (r % 1024) * 2 ^ 125

/-- `lo`: the largest finite binary16 magnitude with value at most `a` (41_f2h.md R82). -/
def IsLowerBracket (a lo : Nat) : Prop :=
  lo ≤ 0x7BFF ∧ magUnits lo ≤ a ∧ ∀ r, r ≤ 0x7BFF → magUnits r ≤ a → r ≤ lo

/-- `hi`: the smallest binary16 magnitude, finite or infinite, with value at least `a` (41_f2h.md R82). -/
def IsUpperBracket (a hi : Nat) : Prop :=
  hi ≤ 0x7C00 ∧ (hi = 0x7C00 ∨ a ≤ magUnits hi) ∧ ∀ r, r ≤ 0x7C00 → r = 0x7C00 ∨ a ≤ magUnits r → hi ≤ r

/-- The nearer bracket, a tie by the tie rule (41_f2h.md R82). -/
def selectNearest (ties : Ties) (a lo hi : Nat) : Nat :=
  if 2 * a < magUnits lo + magUnits hi then lo
  else if magUnits lo + magUnits hi < 2 * a then hi
  else match ties with
    | .even => if lo % 2 = 0 then lo else hi
    | .away => hi

/-- The magnitude a mode picks between the brackets (41_f2h.md R82). -/
def selectMag (b : Build) (m : Mode) (s : Bool) (a lo hi : Nat) : Nat :=
  if lo = hi then lo
  else match m with
    | .rtz => lo
    | .ru => if s then lo else hi
    | .rd => if s then hi else lo
    | .rn => selectNearest b.nearestTies a lo hi
    | .ind => selectNearest b.indTies a lo hi

/-- The mode that does to `-x` what the given one does to `x` (41_f2h.md R96 (b)). -/
def mirrorMode : Mode → Mode
  | .rtz => .rtz
  | .rn => .rn
  | .ru => .rd
  | .rd => .ru
  | .ind => .ind

/-- `2^-24`, the smallest binary16 subnormal, in units of `2^-149`. -/
def unitsOfSmallest16 : Nat := 2 ^ 125

/-- 65504, the largest finite binary16 value, in units of `2^-149`. -/
def unitsOf65504 : Nat := 65504 * 2 ^ 149

/-- 65520, half way between 65504 and `2^16`, in units of `2^-149` (41_f2h.md R82, 30_encoding.md R49). -/
def unitsOf65520 : Nat := 65520 * 2 ^ 149

/-- `2^16` in units of `2^-149`. -/
def unitsOf65536 : Nat := 65536 * 2 ^ 149

end Sys2Proof.Machine
end

