-- ==== Sys2Proof/Machine/Pseudo.lean ====
section
/-! DEFINITION. The pseudo-operations (30_encoding.md R61): names for sequences of transactions that the environment
wires; CORE does not know them. They are written over the answers, the view without time (log 1). -/

namespace Sys2Proof.Machine

/-- The four pseudo-operations (30_encoding.md R61). -/
inductive Pseudo where
  | promote (h : Half)
  | narrow (f : Single)
  | cast (m : Mode) (f : Single)
  | roundtrip (m : Mode) (h : Half)
  deriving DecidableEq, Repr

/-- The environment's wiring of ROUNDTRIP: the answer of H2F is presented to F2H. -/
def narrowAnswer (m : Mode) (s : State) : Host.Outcome State Fault Refusal :=
  match s.h2f.answer with
  | some f => exec (Instr.f2hOf m f) s
  | none => .next s

/-- ROUNDTRIP.<MODE>: `H2F h -> f`, then `F2H.<MODE> f` (30_encoding.md R61). -/
def runRoundtrip (m : Mode) (h : Half) (s : State) : Host.Outcome State Fault Refusal :=
  match exec (.h2f h) s with
  | .next t => narrowAnswer m t
  | .fault r => .fault r
  | .refused r => .refused r

/-- The expansion of a pseudo-operation (30_encoding.md R61). -/
def runPseudo : Pseudo → State → Host.Outcome State Fault Refusal
  | .promote h, s => exec (.h2f h) s
  | .narrow f, s => exec (.f2hRtz f) s
  | .cast m f, s => exec (Instr.f2hOf m f) s
  | .roundtrip m h, s => runRoundtrip m h s

end Sys2Proof.Machine
end

