-- ==== Sys2Proof/Safety.lean ====
section
/-! DEFINITION. What counts as a safe run, in the terms claims use: the environment's obligation on `rm`
(70_reset_and_hazards.md R152), and the invariants of the pipelines and of the responses in flight. -/

namespace Sys2Proof.Machine

/-- The environment keeps its obligation on the mode field in a cycle (70_reset_and_hazards.md R152 (a)): a legal code
wherever `f2h_valid_i` is 1. -/
def Cycle.f2hLegal (c : Cycle) : Bool := !c.f2hValidI || (Mode.ofCode c.f2hRmI).isSome

/-- The same on the RND interface, wherever a request stands there (42_rounding_unit.md R117). -/
def Cycle.rndLegal (c : Cycle) : Bool := c.rndReq.all (fun w => (Mode.ofCode (w.extractLsb' 4 3)).isSome)

/-- No reset reaches the block in the next `n` cycles. -/
def State.noResetFor (s : State) (n : Nat) : Bool :=
  (s.stimulus.take n).all (fun c => !(c.rst && Build.hasReset s.build))

/-- Each pipeline has `LATENCY` stages (10_state.md R17). -/
abbrev State.DepthInv (s : State) : Prop :=
  s.h2f.stages.length = s.build.latency ∧ s.f2h.stages.length = s.build.latency

/-- Every response a channel holds (answered, in flight, or on the output ports) satisfies `p`. -/
def Channel.allResponses {α : Type} (p : α → Bool) (c : Channel α) : Bool :=
  c.answer.all p && c.stages.all (fun o => o.all p) && c.out.all p

/-- A word that H2F can produce (40_h2f.md R76): the low thirteen bits are 0, and the exponent field is 0 with a zero
mantissa, 103 to 142, or 255. -/
def h2fImage (f : Single) : Bool :=
  f.extractLsb' 0 13 == 0#13 &&
  ((exp32 f == 0#8 && man32 f == 0#23) || (decide (103 ≤ (exp32 f).toNat) && decide ((exp32 f).toNat ≤ 142)) ||
    exp32 f == 255#8)

/-- Flags that fit their data (41_f2h.md R88): `ovf` comes with `inx` and with an infinity or the largest finite
magnitude; a NaN comes with no flag. -/
def f2hSound (r : F2hResponse) : Bool :=
  (!r.ovf || (r.inx && (mag16 r.h == 0x7C00#15 || mag16 r.h == 0x7BFF#15))) &&
  (!(class16 r.h == .nan) || (!r.ovf && !r.inx))

/-- Every response held on the H2F channel is a word H2F can give. -/
abbrev State.H2fInv (s : State) : Prop := s.h2f.allResponses h2fImage = true

/-- Every response held on the F2H channel is one F2H can give, and the environment presents legal codes there. (A request
with a reserved code gets an unspecified response, of which nothing is known.) -/
abbrev State.F2hInv (s : State) : Prop :=
  s.f2h.allResponses f2hSound = true ∧ s.stimulus.all Cycle.f2hLegal = true

/-- The valid bits of a channel: of the request, of the stages, of the output. -/
def Channel.validBits {α : Type} (c : Channel α) : Bool × List Bool × Bool :=
  (c.answer.isSome, c.stages.map Option.isSome, c.out.isSome)

/-- `k` cycles. -/
def runCycles (k : Nat) (s : State) : Host.Outcome State Fault Refusal := Host.Core.run Sys2Proof.core k s

end Sys2Proof.Machine
end

