-- ==== Sys2Proof/WellFormed.lean ====
section
/-! DEFINITION. The preconditions of the operations (opcode_table.json, "precondition").
Only the two SUB operations have one; every other request is legal with every operand (00_scope.md R4).
A request that breaks its precondition still runs, with free outputs (log 6). -/

namespace Sys2Proof

/-- The operands meet the precondition their rule states: `m != 0` for SUB.NORM16 (43_subnormal_handler.md R121),
`E8 <= 142` for SUB.DENORM32 (R122), none for the rest. -/
def Instr.wellFormed : Instr → Bool
  | .h2f _ => true
  | .f2hRtz _ => true
  | .f2hRn _ => true
  | .f2hRu _ => true
  | .f2hRd _ => true
  | .f2hInd _ => true
  | .rndRtz _ _ _ _ => true
  | .rndRn _ _ _ _ => true
  | .rndRu _ _ _ _ => true
  | .rndRd _ _ _ _ => true
  | .rndInd _ _ _ _ => true
  | .subNorm16 m => m != 0#10
  | .subDenorm32 e8 _ => decide (e8.toNat ≤ 142)

end Sys2Proof
end

