-- ==== Sys2Proof/Certificates/Slice0/Obligations.lean ====
section
/-! DEFINITION. The statements for the provers, in the order of OBLIGATIONS.json. "Answers `r`" means that `exec` gives a
next state in which the one answer slot of the operation's channel or interface holds `r` and nothing else differs: the
record updates say the frame. -/

open Sys2Proof Sys2Proof.Machine

/-! ## Requests (30_encoding.md) -/

/-- Decoding what the encoder wrote gives the operation back, with every operand (30_encoding.md R50, R51, R54, R55). -/
def Obligations.DecodeOfEncodeIsTheOperation : Prop :=
  ∀ i : Instr, decode (encode i) = .ok i

/-- A request word that decodes is the encoding of what it decodes to: no word has a second meaning
(30_encoding.md R55 to R58). -/
def Obligations.EncodeOfDecodeIsTheWord : Prop :=
  ∀ (q : Request) (i : Instr), decode q = .ok i → encode i = q

/-- The reserved encodings are the `rm` values 4, 5 and 6, and nothing else is rejected (30_encoding.md R52, R58). -/
def Obligations.OnlyReservedModesAreRejected : Prop :=
  (∀ (rm : BitVec 3) (f : BitVec 32), decode (.f2h (rm ++ f)) = .error (.reservedMode rm) ↔ 4 ≤ rm.toNat ∧ rm.toNat ≤ 6) ∧
  (∀ (rm : BitVec 3) (x : BitVec 4), decode (.rnd (rm ++ x)) = .error (.reservedMode rm) ↔ 4 ≤ rm.toNat ∧ rm.toNat ≤ 6) ∧
  (∀ (q : Request) (e : DecodeError), decode q = .error e → (∃ w, q = .f2h w) ∨ (∃ w, q = .rnd w))

/-- Words written out in 95_test_vectors.md sections 2.3 and 2.4 decode to the operations they stand for. -/
def Obligations.SpecRequestWordsDecode : Prop :=
  decode (.h2f 0xBC00#16) = .ok (.h2f 0xBC00#16) ∧
  decode (.f2h 0x03F801FFF#35) = .ok (.f2hRtz 0x3F801FFF#32) ∧
  decode (.f2h 0x13F801FFF#35) = .ok (.f2hRn 0x3F801FFF#32) ∧
  decode (.f2h 0x2477FE001#35) = .ok (.f2hRu 0x477FE001#32) ∧
  decode (.f2h 0x3C7800000#35) = .ok (.f2hRd 0xC7800000#32) ∧
  decode (.f2h 0x73F800000#35) = .ok (.f2hInd 0x3F800000#32) ∧
  decode (.rnd 0x07#7) = .ok (.rndRtz false true true true) ∧
  decode (.rnd 0x2B#7) = .ok (.rndRu true false true true) ∧
  decode (.rnd 0x72#7) = .ok (.rndInd false false true false)

/-! ## Formats (30_encoding.md) -/

/-- The class of a binary16 pattern by the ranges of R41, and the kind of a NaN by the ranges of R42. -/
def Obligations.ClassesOfHalfPatterns : Prop :=
  ∀ h : Half,
    (class16 h = .zero ↔ (mag16 h).toNat = 0) ∧
    (class16 h = .subnormal ↔ 1 ≤ (mag16 h).toNat ∧ (mag16 h).toNat ≤ 0x03FF) ∧
    (class16 h = .normal ↔ 0x0400 ≤ (mag16 h).toNat ∧ (mag16 h).toNat ≤ 0x7BFF) ∧
    (class16 h = .infinite ↔ (mag16 h).toNat = 0x7C00) ∧
    (class16 h = .nan ↔ 0x7C01 ≤ (mag16 h).toNat) ∧
    (signaling16 h = true ↔ 0x7C01 ≤ (mag16 h).toNat ∧ (mag16 h).toNat ≤ 0x7DFF) ∧
    (quiet16 h = true ↔ 0x7E00 ≤ (mag16 h).toNat)

/-- The magnitudes of non-NaN binary16 words are ordered as the absolute values they encode (30_encoding.md R48). -/
def Obligations.MagnitudeOrderIsValueOrder : Prop :=
  ∀ a b : Half, (mag16 a).toNat ≤ 0x7C00 → (mag16 b).toNat ≤ 0x7C00 →
    (Ext.le (value16 a).abs (value16 b).abs = true ↔ (mag16 a).toNat ≤ (mag16 b).toNat)

/-- The named patterns of 30_encoding.md R49: H2F answers the binary32 pattern beside each. -/
def Obligations.NamedPatternsWiden : Prop :=
  ∀ s : State, ∀ p ∈ ([(0x0000#16, 0x00000000#32), (0x8000#16, 0x80000000#32), (0x0001#16, 0x33800000#32),
      (0x03FF#16, 0x387FC000#32), (0x0400#16, 0x38800000#32), (0x1400#16, 0x3A800000#32), (0x3C00#16, 0x3F800000#32),
      (0x3C01#16, 0x3F802000#32), (0xBC00#16, 0xBF800000#32), (0x7BFF#16, 0x477FE000#32), (0xFBFF#16, 0xC77FE000#32),
      (0x7C00#16, 0x7F800000#32), (0xFC00#16, 0xFF800000#32)] : List (Half × Single)),
    exec (.h2f p.1) s = .next { s with h2f := { s.h2f with answer := some p.2 } } ∧ value32 p.2 = value16 p.1

/-! ## Unit H2F (40_h2f.md) -/

/-- R71: a normal half gets its exponent rebiased by 112 and its mantissa left-justified; the value is unchanged. -/
def Obligations.H2fNormalResult : Prop :=
  ∀ (h : Half) (s : State), 1 ≤ (exp16 h).toNat → (exp16 h).toNat ≤ 30 → ∃ f : Single,
    exec (.h2f h) s = .next { s with h2f := { s.h2f with answer := some f } } ∧
    f = pack32 (sign16 h) (BitVec.ofNat 8 ((exp16 h).toNat + 112)) (man16 h ++ 0#13) ∧
    value32 f = value16 h

/-- R72: an infinity gives the infinity of its sign, a NaN a NaN of its kind, sign and payload. -/
def Obligations.H2fSpecialResult : Prop :=
  ∀ (h : Half) (s : State), exp16 h = 31#5 → ∃ f : Single,
    exec (.h2f h) s = .next { s with h2f := { s.h2f with answer := some f } } ∧
    f = pack32 (sign16 h) 255#8 (man16 h ++ 0#13) ∧
    (man16 h = 0#10 → f = if sign16 h then 0xFF800000#32 else 0x7F800000#32) ∧
    (man16 h ≠ 0#10 → class32 f = .nan) ∧
    quiet32 f = quiet16 h ∧ signaling32 f = signaling16 h

/-- R73: a zero gives the zero of its sign. -/
def Obligations.H2fZeroResult : Prop :=
  ∀ (h : Half) (s : State), exp16 h = 0#5 → man16 h = 0#10 →
    exec (.h2f h) s = .next { s with h2f := { s.h2f with
      answer := some (if sign16 h then 0x80000000#32 else 0x00000000#32) } }

/-- R74: a subnormal is normalised; the leading one at bit `9 - k` of the mantissa gives the exponent field `112 - k`. -/
def Obligations.H2fSubnormalResult : Prop :=
  ∀ (h : Half) (s : State), exp16 h = 0#5 → man16 h ≠ 0#10 → ∃ (k : Nat) (f : Single),
    exec (.h2f h) s = .next { s with h2f := { s.h2f with answer := some f } } ∧
    k ≤ 9 ∧ 2 ^ (9 - k) ≤ (man16 h).toNat ∧ (man16 h).toNat < 2 ^ (10 - k) ∧
    f = pack32 (sign16 h) (BitVec.ofNat 8 (112 - k)) (BitVec.ofNat 10 ((man16 h).toNat * 2 ^ (k + 1)) ++ 0#13) ∧
    class32 f = .normal ∧ value32 f = value16 h

/-- R75: H2F is exact on every non-NaN, infinities and the sign of zero included, and touches only its own channel. -/
def Obligations.H2fIsExact : Prop :=
  ∀ (h : Half) (s : State), class16 h ≠ .nan → ∃ f : Single,
    exec (.h2f h) s = .next { s with h2f := { s.h2f with answer := some f } } ∧ value32 f = value16 h

/-- R76: the low thirteen bits of every H2F answer are 0, and its exponent field is 0 (zeros only), 103 to 142 or 255. -/
def Obligations.H2fAnswersLieInTheImage : Prop :=
  ∀ (h : Half) (s : State), ∃ f : Single,
    exec (.h2f h) s = .next { s with h2f := { s.h2f with answer := some f } } ∧
    f.extractLsb' 0 13 = 0#13 ∧ sign32 f = sign16 h ∧
    ((exp32 f = 0#8 ∧ man32 f = 0#23) ∨ (103 ≤ (exp32 f).toNat ∧ (exp32 f).toNat ≤ 142) ∨ exp32 f = 255#8)

/-- R77: two halves with the same H2F answer are the same half, whatever the states. -/
def Obligations.H2fIsInjective : Prop :=
  ∀ (h h' : Half) (s s' t t' : State), exec (.h2f h) s = .next t → exec (.h2f h') s' = .next t' →
    t.h2f.answer = t'.h2f.answer → h = h'

/-! ## Unit F2H (41_f2h.md). `Instr.f2hOf m` is the F2H operation of the mode `m`, one of the five. -/

/-- R83: in every mode a NaN gives a NaN of the same sign and kind, its payload truncated, bit 8 forced where the kept
payload would be 0, with both flags 0. -/
def Obligations.F2hNanResult : Prop :=
  ∀ (m : Mode) (f : Single) (s : State), exp32 f = 255#8 → man32 f ≠ 0#23 → ∃ h : Half,
    exec (Instr.f2hOf m f) s =
      .next { s with f2h := { s.f2h with answer := some { h := h, ovf := false, inx := false } } } ∧
    h = pack16 (sign32 f) 31#5
      (if (man32 f).extractLsb' 13 10 = 0#10 then 0x100#10 else (man32 f).extractLsb' 13 10) ∧
    class16 h = .nan ∧ quiet16 h = quiet32 f ∧ signaling16 h = signaling32 f

/-- R84: in every mode an infinity gives the infinity of its sign, with both flags 0. -/
def Obligations.F2hInfinityResult : Prop :=
  ∀ (m : Mode) (f : Single) (s : State), exp32 f = 255#8 → man32 f = 0#23 →
    exec (Instr.f2hOf m f) s = .next { s with f2h := { s.f2h with
      answer := some { h := if sign32 f then 0xFC00#16 else 0x7C00#16, ovf := false, inx := false } } }

/-- R85: overflow by exponent gives the table's word, with both flags 1. -/
def Obligations.F2hOverflowResult : Prop :=
  ∀ (m : Mode) (f : Single) (s : State), 143 ≤ (exp32 f).toNat → (exp32 f).toNat ≤ 254 →
    exec (Instr.f2hOf m f) s = .next { s with f2h := { s.f2h with
      answer := some
        { h := match m, sign32 f with
            | .rtz, false => 0x7BFF#16
            | .rtz, true => 0xFBFF#16
            | .rn, false => 0x7C00#16
            | .rn, true => 0xFC00#16
            | .ru, false => 0x7C00#16
            | .ru, true => 0xFBFF#16
            | .rd, false => 0x7BFF#16
            | .rd, true => 0xFC00#16
            | .ind, false => 0x7C00#16
            | .ind, true => 0xFC00#16
          ovf := true, inx := true } } }

/-- R86: the general path. The significand is cut at `sh` into the kept bits, the guard bit and the rest; the magnitude
is `1024 * ebase + kept + inc` without a wrap; the flags follow. -/
def Obligations.F2hGeneralResult : Prop :=
  ∀ (m : Mode) (f : Single) (s : State), (exp32 f).toNat ≤ 142 → ∃ (sh ebase kept rest : Nat) (g t inc : Bool),
    sh = (if 113 ≤ (exp32 f).toNat then 13 else 126 - max (exp32 f).toNat 1) ∧
    ebase = (exp32 f).toNat - 113 ∧
    (if exp32 f = 0#8 then 0 else 2 ^ 23) + (man32 f).toNat = kept * 2 ^ sh + (if g then 2 ^ (sh - 1) else 0) + rest ∧
    rest < 2 ^ (sh - 1) ∧ t = decide (rest ≠ 0) ∧
    inc = rndUnit s.build m (sign32 f) (decide (kept % 2 = 1)) g t ∧
    1024 * ebase + kept + (if inc then 1 else 0) ≤ 0x7C00 ∧
    exec (Instr.f2hOf m f) s = .next { s with f2h := { s.f2h with
      answer := some
        { h := packMag16 (sign32 f) (BitVec.ofNat 15 (1024 * ebase + kept + (if inc then 1 else 0)))
          ovf := decide (1024 * ebase + kept + (if inc then 1 else 0) = 0x7C00)
          inx := g || t } } }

/-- R82, the value contract: for a finite source every mode answers the sign of the source and the magnitude that the
mode picks between the two bracketing binary16 magnitudes. -/
def Obligations.F2hMeetsTheValueContract : Prop :=
  ∀ (m : Mode) (f : Single) (s : State), exp32 f ≠ 255#8 → ∃ (lo hi : Nat) (r : F2hResponse),
    exec (Instr.f2hOf m f) s = .next { s with f2h := { s.f2h with answer := some r } } ∧
    IsLowerBracket (value32 f).units lo ∧ IsUpperBracket (value32 f).units hi ∧
    r.h = packMag16 (sign32 f) (BitVec.ofNat 15 (selectMag s.build m (sign32 f) (value32 f).units lo hi))

/-- R87: the table of the tiny sources, `E8 <= 102`. -/
def Obligations.F2hTinySourceTable : Prop :=
  ∀ (m : Mode) (f : Single) (s : State), (exp32 f).toNat ≤ 102 →
    exec (Instr.f2hOf m f) s = .next { s with f2h := { s.f2h with
      answer := some
        { h := packMag16 (sign32 f)
            (if exp32 f = 0#8 ∧ man32 f = 0#23 then 0#15
             else match m with
              | .rtz => 0#15
              | .ru => if sign32 f then 0#15 else 1#15
              | .rd => if sign32 f then 1#15 else 0#15
              | .rn => if (exp32 f).toNat = 102 ∧ (man32 f ≠ 0#23 ∨ s.build.nearestTies = .away) then 1#15 else 0#15
              | .ind => if (exp32 f).toNat = 102 ∧ (man32 f ≠ 0#23 ∨ s.build.indTies = .away) then 1#15 else 0#15)
          ovf := false
          inx := !decide (exp32 f = 0#8 ∧ man32 f = 0#23) } } }

/-- R88, consequences: `inx` is 1 exactly when a finite source's value changed; `ovf` exactly when a finite source has
magnitude at least `2^16` or gave an infinity; `ovf` comes with `inx`. -/
def Obligations.F2hFlagsSayWhatHappened : Prop :=
  ∀ (m : Mode) (f : Single) (s : State), ∃ r : F2hResponse,
    exec (Instr.f2hOf m f) s = .next { s with f2h := { s.f2h with answer := some r } } ∧
    (r.inx = true ↔ (value32 f).isFinite = true ∧ value16 r.h ≠ value32 f) ∧
    (r.ovf = true ↔ (value32 f).isFinite = true ∧ (unitsOf65536 ≤ (value32 f).units ∨ class16 r.h = .infinite)) ∧
    (r.ovf = true → r.inx = true)

/-- R89: the sign of the result is the sign of the source, in every case and every mode. -/
def Obligations.F2hKeepsTheSign : Prop :=
  ∀ (m : Mode) (f : Single) (s : State), ∃ r : F2hResponse,
    exec (Instr.f2hOf m f) s = .next { s with f2h := { s.f2h with answer := some r } } ∧ sign16 r.h = sign32 f

/-- R91: toward zero never gives an infinity from a finite source, flags overflow only by exponent, and gives a signed
zero below `2^-24`; its value never exceeds the source's in magnitude. -/
def Obligations.F2hRtzTruncates : Prop :=
  ∀ (f : Single) (s : State), exp32 f ≠ 255#8 → ∃ r : F2hResponse,
    exec (.f2hRtz f) s = .next { s with f2h := { s.f2h with answer := some r } } ∧
    (value16 r.h).isFinite = true ∧ (value16 r.h).units ≤ (value32 f).units ∧
    (r.ovf = true ↔ 143 ≤ (exp32 f).toNat) ∧
    ((value32 f).units < unitsOfSmallest16 → r.h = packMag16 (sign32 f) 0#15) ∧
    (unitsOf65504 ≤ (value32 f).units → r.h = packMag16 (sign32 f) 0x7BFF#15)

/-- R92: to nearest, the corner cases: infinity exactly from 65520 up, the tie at `2^-25` by `NEAREST_TIES`, one step up
between it and `2^-24`, zero below it. -/
def Obligations.F2hRnCorners : Prop :=
  ∀ (f : Single) (s : State), exp32 f ≠ 255#8 → ∃ r : F2hResponse,
    exec (.f2hRn f) s = .next { s with f2h := { s.f2h with answer := some r } } ∧
    (class16 r.h = .infinite ↔ unitsOf65520 ≤ (value32 f).units) ∧
    (r.ovf = true ↔ unitsOf65520 ≤ (value32 f).units) ∧
    ((value32 f).units = 2 ^ 124 →
      r.h = packMag16 (sign32 f) (match s.build.nearestTies with | .even => 0#15 | .away => 1#15)) ∧
    (2 ^ 124 < (value32 f).units → (value32 f).units < 2 ^ 125 → r.h = packMag16 (sign32 f) 1#15) ∧
    ((value32 f).units < 2 ^ 124 → r.h = packMag16 (sign32 f) 0#15)

/-- R93: toward positive infinity, the corner cases of both signs. -/
def Obligations.F2hRuCorners : Prop :=
  ∀ (f : Single) (s : State), exp32 f ≠ 255#8 → ∃ r : F2hResponse,
    exec (.f2hRu f) s = .next { s with f2h := { s.f2h with answer := some r } } ∧
    (sign32 f = false → 0 < (value32 f).units → (value32 f).units < unitsOfSmallest16 → r.h = 0x0001#16) ∧
    (sign32 f = true → (value32 f).units < unitsOfSmallest16 → r.h = 0x8000#16) ∧
    (sign32 f = false → unitsOf65504 < (value32 f).units → r.h = 0x7C00#16 ∧ r.ovf = true) ∧
    (sign32 f = true → unitsOf65536 ≤ (value32 f).units → r.h = 0xFBFF#16 ∧ r.ovf = true)

/-- R94: toward negative infinity, the corner cases of both signs. -/
def Obligations.F2hRdCorners : Prop :=
  ∀ (f : Single) (s : State), exp32 f ≠ 255#8 → ∃ r : F2hResponse,
    exec (.f2hRd f) s = .next { s with f2h := { s.f2h with answer := some r } } ∧
    (sign32 f = true → 0 < (value32 f).units → (value32 f).units < unitsOfSmallest16 → r.h = 0x8001#16) ∧
    (sign32 f = false → (value32 f).units < unitsOfSmallest16 → r.h = 0x0000#16) ∧
    (sign32 f = false → unitsOf65536 ≤ (value32 f).units → r.h = 0x7BFF#16 ∧ r.ovf = true) ∧
    (sign32 f = true → unitsOf65504 < (value32 f).units → r.h = 0xFC00#16 ∧ r.ovf = true)

/-- R95: the indeterminate mode answers what to-nearest would answer with `IND_TIES` as its tie rule; its flags are
to-nearest's in any case, and off the ties so is its data. -/
def Obligations.F2hIndDiffersFromRnOnTiesOnly : Prop :=
  ∀ (f : Single) (s : State), ∃ r rn : F2hResponse,
    exec (.f2hInd f) s = .next { s with f2h := { s.f2h with answer := some r } } ∧
    exec (.f2hRn f) s = .next { s with f2h := { s.f2h with answer := some rn } } ∧
    (exec (.f2hRn f) { s with build := { s.build with nearestTies := s.build.indTies } } =
      .next { s with build := { s.build with nearestTies := s.build.indTies }
                     f2h := { s.f2h with answer := some r } }) ∧
    r.ovf = rn.ovf ∧ r.inx = rn.inx ∧
    ((exp32 f).toNat ≤ 142 →
      ¬ ((denorm32Unit (exp32 f) (man32 f)).g = true ∧ (denorm32Unit (exp32 f) (man32 f)).t = false) → r = rn) ∧
    (143 ≤ (exp32 f).toNat → r = rn)

/-- R96 (a): a half that goes through H2F and comes back through F2H is unchanged, with both flags 0, in every mode,
for every value of the parameters: ROUNDTRIP.<MODE> of 30_encoding.md R61. -/
def Obligations.RoundTripGivesTheHalfBack : Prop :=
  ∀ (m : Mode) (h : Half) (s : State), ∃ f : Single,
    runPseudo (.roundtrip m h) s = .next { s with
      h2f := { s.h2f with answer := some f }
      f2h := { s.f2h with answer := some { h := h, ovf := false, inx := false } } }

/-- R96 (b): flipping the source's sign bit flips the result's sign bit under the mirrored mode, with equal flags. -/
def Obligations.F2hSignSymmetry : Prop :=
  ∀ (m : Mode) (f : Single) (s : State), ∃ r : F2hResponse,
    exec (Instr.f2hOf (mirrorMode m) f) s = .next { s with f2h := { s.f2h with answer := some r } } ∧
    exec (Instr.f2hOf m (f ^^^ 0x80000000#32)) s =
      .next { s with f2h := { s.f2h with answer := some { h := r.h ^^^ 0x8000#16, ovf := r.ovf, inx := r.inx } } }

/-- R96 (c): the directed modes enclose the source, toward zero does not grow it, to nearest is one of the bounds. -/
def Obligations.F2hDirectedModesEnclose : Prop :=
  ∀ (f : Single) (s : State), exp32 f ≠ 255#8 → ∃ dn up tz nr : F2hResponse,
    exec (.f2hRd f) s = .next { s with f2h := { s.f2h with answer := some dn } } ∧
    exec (.f2hRu f) s = .next { s with f2h := { s.f2h with answer := some up } } ∧
    exec (.f2hRtz f) s = .next { s with f2h := { s.f2h with answer := some tz } } ∧
    exec (.f2hRn f) s = .next { s with f2h := { s.f2h with answer := some nr } } ∧
    Ext.le (value16 dn.h) (value32 f) = true ∧ Ext.le (value32 f) (value16 up.h) = true ∧
    Ext.le (value16 tz.h).abs (value32 f).abs = true ∧ (nr.h = dn.h ∨ nr.h = up.h)

/-- R96 (d): when one mode is exact, all five give the same response; IND and RN agree when their tie rules do. -/
def Obligations.F2hExactSourcesAgreeInAllModes : Prop :=
  ∀ (m m' : Mode) (f : Single) (s : State), ∃ r r' : F2hResponse,
    exec (Instr.f2hOf m f) s = .next { s with f2h := { s.f2h with answer := some r } } ∧
    exec (Instr.f2hOf m' f) s = .next { s with f2h := { s.f2h with answer := some r' } } ∧
    (r.inx = false → r = r') ∧
    (m = .rn → m' = .ind → s.build.nearestTies = s.build.indTies → r = r')

/-- R96 (e): F2H is monotone in every mode. -/
def Obligations.F2hIsMonotone : Prop :=
  ∀ (m : Mode) (f f' : Single) (s : State), exp32 f ≠ 255#8 → exp32 f' ≠ 255#8 →
    Ext.le (value32 f) (value32 f') = true → ∃ r r' : F2hResponse,
    exec (Instr.f2hOf m f) s = .next { s with f2h := { s.f2h with answer := some r } } ∧
    exec (Instr.f2hOf m f') s = .next { s with f2h := { s.f2h with answer := some r' } } ∧
    Ext.le (value16 r.h) (value16 r'.h) = true

/-- 43_subnormal_handler.md R123: a zero or subnormal result needs `E8 <= 112` and a sum below 0x400; the sum 0x400 gives
the smallest normal. -/
def Obligations.F2hSubnormalResultBoundary : Prop :=
  ∀ (m : Mode) (f : Single) (s : State), (exp32 f).toNat ≤ 142 → ∃ (r : F2hResponse) (d : Denorm32Response) (inc : Bool),
    exec (Instr.f2hOf m f) s = .next { s with f2h := { s.f2h with answer := some r } } ∧
    d = denorm32Unit (exp32 f) (man32 f) ∧ inc = rndUnit s.build m (sign32 f) (d.kept.getLsbD 0) d.g d.t ∧
    ((class16 r.h = .zero ∨ class16 r.h = .subnormal) ↔
      (exp32 f).toNat ≤ 112 ∧ d.kept.toNat + (if inc then 1 else 0) < 0x400) ∧
    ((exp32 f).toNat ≤ 112 → d.kept.toNat + (if inc then 1 else 0) = 0x400 → r.h = packMag16 (sign32 f) 0x0400#15)

/-! ## Unit RND (42_rounding_unit.md) -/

/-- R111 to R115: what each of the five RND operations answers. -/
def Obligations.RndResults : Prop :=
  ∀ (sgn l g t : Bool) (s : State),
    exec (.rndRtz sgn l g t) s = .next { s with rndInc := some false } ∧
    exec (.rndRn sgn l g t) s =
      .next { s with rndInc := some (match s.build.nearestTies with | .even => g && (t || l) | .away => g) } ∧
    exec (.rndRu sgn l g t) s = .next { s with rndInc := some (!sgn && (g || t)) } ∧
    exec (.rndRd sgn l g t) s = .next { s with rndInc := some (sgn && (g || t)) } ∧
    exec (.rndInd sgn l g t) s =
      .next { s with rndInc := some (match s.build.indTies with | .even => g && (t || l) | .away => g) }

/-- R116: RND never increments an exact value; RD is RU with the sign flipped; IND is RN off the ties. -/
def Obligations.RndLaws : Prop :=
  ∀ (sgn l g t : Bool) (s : State),
    (∀ m : Mode, exec (Instr.rndOf m sgn l false false) s = .next { s with rndInc := some false }) ∧
    exec (.rndRd sgn l g t) s = exec (.rndRu (!sgn) l g t) s ∧
    (¬ (g = true ∧ t = false) → exec (.rndInd sgn l g t) s = exec (.rndRn sgn l g t) s)

/-! ## Unit SUB (43_subnormal_handler.md) -/

/-- R121: SUB.NORM16 of a non-zero mantissa whose leading one is at bit `9 - k`. -/
def Obligations.Norm16Result : Prop :=
  ∀ (m : BitVec 10) (s : State), m ≠ 0#10 → ∃ (k : Nat) (r : Norm16Response),
    exec (.subNorm16 m) s = .next { s with norm16 := some r } ∧
    k ≤ 9 ∧ 2 ^ (9 - k) ≤ m.toNat ∧ m.toNat < 2 ^ (10 - k) ∧
    r.e8.toNat = 112 - k ∧ r.mn = BitVec.ofNat 10 (m.toNat * 2 ^ (k + 1)) ∧
    (1024 + r.mn.toNat) * 2 ^ (9 - k) = m.toNat * 1024

/-- SUB.NORM16 of 0 runs and answers some word; nothing else changes but the model's own counter.
The form is the model's choice (log 6), not a rule of the spec. -/
def Obligations.Norm16OfZeroStillAnswers : Prop :=
  ∀ s : State, ∃ r : Norm16Response,
    exec (.subNorm16 0#10) s = .next { s with norm16 := some r, freeCount := s.freeCount + 1 }

/-- R122: SUB.DENORM32 cuts the significand into kept bits, guard and rest without loss. -/
def Obligations.Denorm32Result : Prop :=
  ∀ (e8 : BitVec 8) (m23 : BitVec 23) (s : State), e8.toNat ≤ 142 → ∃ (sh rest : Nat) (r : Denorm32Response),
    exec (.subDenorm32 e8 m23) s = .next { s with denorm32 := some r } ∧
    sh = (if 113 ≤ e8.toNat then 13 else 126 - max e8.toNat 1) ∧
    r.ebase.toNat = e8.toNat - 113 ∧
    (if e8 = 0#8 then 0 else 2 ^ 23) + m23.toNat = r.kept.toNat * 2 ^ sh + (if r.g then 2 ^ (sh - 1) else 0) + rest ∧
    rest < 2 ^ (sh - 1) ∧ (r.t = true ↔ rest ≠ 0)

/-- R122, the table by exponent: normal results, the ten exponents of the subnormal results, `2^-25`, and below. -/
def Obligations.Denorm32Table : Prop :=
  ∀ (e8 : BitVec 8) (m23 : BitVec 23) (s : State), e8.toNat ≤ 142 → ∃ r : Denorm32Response,
    exec (.subDenorm32 e8 m23) s = .next { s with denorm32 := some r } ∧
    (113 ≤ e8.toNat → r = { ebase := BitVec.ofNat 5 (e8.toNat - 113), kept := 1#1 ++ m23.extractLsb' 13 10,
                            g := m23.getLsbD 12, t := m23.extractLsb' 0 12 != 0#12 }) ∧
    (∀ j, 1 ≤ j → j ≤ 10 → e8.toNat = 113 - j →
      r = { ebase := 0#5, kept := BitVec.ofNat 11 (2 ^ (10 - j) + m23.toNat / 2 ^ (13 + j)),
            g := m23.getLsbD (12 + j), t := decide (m23.toNat % 2 ^ (12 + j) ≠ 0) }) ∧
    (e8.toNat = 102 → r = { ebase := 0#5, kept := 0#11, g := true, t := m23 != 0#23 }) ∧
    (1 ≤ e8.toNat → e8.toNat ≤ 101 → r = { ebase := 0#5, kept := 0#11, g := false, t := true }) ∧
    (e8 = 0#8 → r = { ebase := 0#5, kept := 0#11, g := false, t := m23 != 0#23 })

/-- SUB.DENORM32 with `E8 >= 143` runs and answers some word; nothing else changes but the model's own counter.
The form is the model's choice (log 6), not a rule of the spec. -/
def Obligations.Denorm32OfLargeExponentStillAnswers : Prop :=
  ∀ (e8 : BitVec 8) (m23 : BitVec 23) (s : State), 143 ≤ e8.toNat → ∃ r : Denorm32Response,
    exec (.subDenorm32 e8 m23) s = .next { s with denorm32 := some r, freeCount := s.freeCount + 1 }

/-! ## The block, cycle by cycle (10_state.md, 70_reset_and_hazards.md) -/

/-- A step runs the decoded operation: when exactly one request is answered in the coming cycle, the step is `exec` of
what it decodes to, on the state as the cycle begins, followed by the end of the cycle; and a request that is presented
alone is such a request. -/
def Obligations.StepRunsTheDecodedOperation : Prop :=
  (∀ (s : State) (q : Request) (i : Instr), s.requests = [q] → decode q = .ok i →
    step s = endOutcome s.inReset (exec i s.beginCycle)) ∧
  (∀ (s : State) (q : Request) (i : Instr), decode q = .ok i →
    step (s.present q) = endOutcome false (exec i (s.present q).beginCycle))

/-- 10_state.md R21, R23, in the model's own slots (log 1, log 9): a cycle with a request on both channels. Both are answered, each pipeline moves on by one, and
the last stages drive the output ports (the answers themselves when there is no stage). -/
def Obligations.TwoChannelCycle : Prop :=
  ∀ (s : State) (m : Mode), s.inReset = false → s.nextCycle.h2fValidI = true → s.nextCycle.f2hValidI = true →
    s.nextCycle.f2hRmI = m.code → s.nextCycle.internalRequests = [] → ∃ (a : Single) (b : F2hResponse),
    (∃ t, exec (.h2f s.nextCycle.h2fDataI) s = .next t ∧ t.h2f.answer = some a) ∧
    (∃ t, exec (Instr.f2hOf m s.nextCycle.f2hDataI) s = .next t ∧ t.f2h.answer = some b) ∧
    step s = .next
      { build := s.build
        h2f := { answer := some a, stages := (some a :: s.h2f.stages).dropLast, out := s.h2f.stages.getLastD (some a) }
        f2h := { answer := some b, stages := (some b :: s.f2h.stages).dropLast, out := s.f2h.stages.getLastD (some b) }
        rndInc := none
        norm16 := none
        denorm32 := none
        stimulus := s.stimulus.tail
        freeCount := s.freeCount + 1 }

/-- 10_state.md R21, in the model's own slots (log 1, log 3): a cycle with no request. Nothing is answered and the pipelines move on. -/
def Obligations.IdleCycle : Prop :=
  ∀ s : State, s.inReset = false → s.nextCycle.h2fValidI = false → s.nextCycle.f2hValidI = false →
    s.nextCycle.internalRequests = [] →
    step s = .next
      { build := s.build
        h2f := { answer := none, stages := (none :: s.h2f.stages).dropLast, out := s.h2f.stages.getLastD none }
        f2h := { answer := none, stages := (none :: s.f2h.stages).dropLast, out := s.f2h.stages.getLastD none }
        rndInc := none
        norm16 := none
        denorm32 := none
        stimulus := s.stimulus.tail
        freeCount := s.freeCount + 1 }

/-- 70_reset_and_hazards.md R150, in the model's own slots (log 9, log 10): a cycle with `rst` at 1, `LATENCY > 0`. Every valid bit goes to 0, the output valids
are 0, and the requests on the channels, whatever they are, are discarded. -/
def Obligations.ResetCycle : Prop :=
  ∀ s : State, s.nextCycle.rst = true → 0 < s.build.latency → s.nextCycle.internalRequests = [] → ∃ t : State,
    step s = .next t ∧ t.h2fValidO = false ∧ t.f2hValidO = false ∧
    t = { build := s.build
          h2f := { answer := none, stages := List.replicate s.h2f.stages.length none, out := none }
          f2h := { answer := none, stages := List.replicate s.f2h.stages.length none, out := none }
          rndInc := none
          norm16 := none
          denorm32 := none
          stimulus := s.stimulus.tail
          freeCount := s.freeCount + 1 }

/-- Every step keeps the depth of the pipelines: `LATENCY` stages on each channel (10_state.md R17). -/
def Obligations.StepKeepsPipelineDepth : Prop :=
  ∀ s t : State, s.DepthInv → step s = .next t → t.DepthInv

/-- The state after reset has `LATENCY` stages on each channel, every valid bit 0, and no response pending
(10_state.md R17). -/
def Obligations.ResetHasFullEmptyPipelines : Prop :=
  State.reset.DepthInv ∧ (∀ o ∈ State.reset.h2f.stages, o = none) ∧ (∀ o ∈ State.reset.f2h.stages, o = none) ∧
  State.reset.h2fValidO = false ∧ State.reset.f2hValidO = false

/-- Every step keeps the responses sound: whatever the H2F channel holds is a word H2F can give (40_h2f.md R76), and, while
the environment keeps its obligation on the mode field (70_reset_and_hazards.md R152), whatever the F2H channel holds is
data with flags that fit it (41_f2h.md R88). That a stage holds the finished response is the model's choice (log 9), since
10_state.md R17 leaves the form of the data in flight to the implementation; so is the answer slot (log 1). -/
def Obligations.StepKeepsResponsesSound : Prop :=
  ∀ s t : State, step s = .next t → (s.H2fInv → t.H2fInv) ∧ (s.F2hInv → t.F2hInv)

/-- After reset the channels hold no response at all, so the responses are sound. The spec gives that for the stages and
the output ports (10_state.md R17); that the answer slots hold none, and that the stimulus is empty, is the model's choice
(log 19, log 3). -/
def Obligations.ResetResponsesSound : Prop :=
  State.reset.H2fInv ∧ State.reset.F2hInv

/-- 10_state.md R21, the headline of the protocol, on the model's answer slots (log 1): what a channel answers in one cycle (a response, or nothing) is what
its output ports show `LATENCY` cycles later, from every state with full pipelines, if no reset comes between. -/
def Obligations.ResponseLeavesAfterLatency : Prop :=
  ∀ s t u : State, s.DepthInv → step s = .next t → t.noResetFor t.build.latency = true →
    runCycles t.build.latency t = .next u → u.h2f.out = t.h2f.answer ∧ u.f2h.out = t.f2h.answer

/-- 00_scope.md R5, R6, R7, 70_reset_and_hazards.md R151: no step changes a build parameter, and none is a port. -/
def Obligations.BuildParametersNeverChange : Prop :=
  ∀ s t : State, step s = .next t → t.build = s.build

/-- 10_state.md R23: what a channel holds after a cycle does not depend on the other channel, nor on what was asked of
it, a reserved mode code included. The unspecified response to such a code may depend on the model's own counter (log 5,
log 7), so F2H's data is compared for legal codes or equal counters; the valid bits of each channel depend on its own valid
bits and valid input, and on nothing else. -/
def Obligations.ChannelsAreIndependent : Prop :=
  ∀ s s' t t' : State, s.build = s'.build → s.nextCycle.rst = s'.nextCycle.rst → step s = .next t → step s' = .next t' →
    (s.h2f = s'.h2f → s.nextCycle.h2fValidI = s'.nextCycle.h2fValidI → s.nextCycle.h2fDataI = s'.nextCycle.h2fDataI →
      t.h2f = t'.h2f) ∧
    (s.f2h = s'.f2h → s.nextCycle.f2hValidI = s'.nextCycle.f2hValidI → s.nextCycle.f2hDataI = s'.nextCycle.f2hDataI →
      s.nextCycle.f2hRmI = s'.nextCycle.f2hRmI → s.nextCycle.f2hLegal = true ∨ s.freeCount = s'.freeCount →
      t.f2h = t'.f2h) ∧
    (s.h2f.validBits = s'.h2f.validBits → s.nextCycle.h2fValidI = s'.nextCycle.h2fValidI →
      t.h2f.validBits = t'.h2f.validBits) ∧
    (s.f2h.validBits = s'.f2h.validBits → s.nextCycle.f2hValidI = s'.nextCycle.f2hValidI →
      t.f2h.validBits = t'.f2h.validBits)

/-- 00_scope.md R2: what is answered in a cycle depends on the cycle's requests and on the parameters alone, not on what
any earlier cycle left, a request with a reserved mode code included (30_encoding.md R53: "later transactions are
unaffected"). Where a code is reserved the answer itself is unspecified. -/
def Obligations.AnswersDoNotDependOnHistory : Prop :=
  ∀ s s' t t' : State, s.build = s'.build → s.nextCycle = s'.nextCycle → step s = .next t → step s' = .next t' →
    t.h2f.answer = t'.h2f.answer ∧ (s.nextCycle.f2hLegal = true → t.f2h.answer = t'.f2h.answer) ∧
    (s.nextCycle.rndLegal = true → t.rndInc = t'.rndInc)

/-- 10_state.md R22 (its second sentence): while a channel's valid input is 0, its data and mode inputs are ignored, reserved codes included. -/
def Obligations.InvalidInputsAreIgnored : Prop :=
  ∀ (s : State) (c : Cycle) (rest : List Cycle) (d16 : BitVec 16) (d32 : BitVec 32) (rm : BitVec 3),
    (c.h2fValidI = false →
      step { s with stimulus := { c with h2fDataI := d16 } :: rest } = step { s with stimulus := c :: rest }) ∧
    (c.f2hValidI = false →
      step { s with stimulus := { c with f2hDataI := d32, f2hRmI := rm } :: rest } = step { s with stimulus := c :: rest })

/-- 30_encoding.md R53, 42_rounding_unit.md R117, 60_exceptions.md R141: a transaction is refused exactly when its mode code
is reserved, on the F2H channel or the RND interface, with that code as the reason. -/
def Obligations.ReservedModeIsRefused : Prop :=
  (∀ (s : State) (rm : BitVec 3) (f : BitVec 32), 4 ≤ rm.toNat → rm.toNat ≤ 6 →
    serveOne (.f2h (rm ++ f)) s = .refused (.reservedMode rm)) ∧
  (∀ (s : State) (rm : BitVec 3) (x : BitVec 4), 4 ≤ rm.toNat → rm.toNat ≤ 6 →
    serveOne (.rnd (rm ++ x)) s = .refused (.reservedMode rm)) ∧
  (∀ (s : State) (q : Request) (r : Refusal), serveOne q s = .refused r → ∃ rm : BitVec 3,
    r = .reservedMode rm ∧ 4 ≤ rm.toNat ∧ rm.toNat ≤ 6 ∧
    ((∃ f : BitVec 32, q = .f2h (rm ++ f)) ∨ (∃ x : BitVec 4, q = .rnd (rm ++ x))))

/-- 60_exceptions.md R130, R135, 70_reset_and_hazards.md R157: every cycle completes, whatever the mode codes, and, when no
reset reaches it, each channel answers exactly when it was asked. -/
def Obligations.EveryCycleIsAnswered : Prop :=
  ∀ s : State, ∃ t : State, step s = .next t ∧
    (s.inReset = false →
      t.h2f.answer.isSome = s.nextCycle.h2fValidI ∧ t.f2h.answer.isSome = s.nextCycle.f2hValidI)

/-- 10_state.md R21: with `LATENCY = 0` the output ports are combinational: valid out is valid in, and the data pins are
the units' functions of the data inputs of the same cycle. -/
def Obligations.ZeroLatencyIsCombinational : Prop :=
  ∀ (s t : State), s.DepthInv → s.build.latency = 0 → step s = .next t →
    t.h2fValidO = s.nextCycle.h2fValidI ∧ t.f2hValidO = s.nextCycle.f2hValidI ∧
    (s.nextCycle.h2fValidI = true → ∃ u, exec (.h2f s.nextCycle.h2fDataI) s = .next u ∧ u.h2f.answer = some t.h2fDataO) ∧
    (∀ m : Mode, s.nextCycle.f2hValidI = true → s.nextCycle.f2hRmI = m.code →
      ∃ u, exec (Instr.f2hOf m s.nextCycle.f2hDataI) s = .next u ∧
        u.f2h.answer = some { h := t.f2hDataO, ovf := t.f2hOvfO, inx := t.f2hInxO })

/-- 30_encoding.md R53, 42_rounding_unit.md R117, 10_state.md R23, in the model's own slots (log 5, log 9). A request on F2H
with a reserved mode code gets some response, in flight like any other, and H2F answers beside it as if alone; one on RND
puts some value on `rnd_inc`, and all the rest is as in the same cycle without it. -/
def Obligations.ReservedModeDisturbsNothing : Prop :=
  (∀ s : State, s.inReset = false → s.nextCycle.f2hValidI = true →
    4 ≤ s.nextCycle.f2hRmI.toNat → s.nextCycle.f2hRmI.toNat ≤ 6 → s.nextCycle.internalRequests = [] →
    ∃ (a : Option Single) (r : F2hResponse),
      a.isSome = s.nextCycle.h2fValidI ∧
      (s.nextCycle.h2fValidI = true → ∃ t, exec (.h2f s.nextCycle.h2fDataI) s = .next t ∧ t.h2f.answer = a) ∧
      step s = .next
        { build := s.build
          h2f := { answer := a, stages := (a :: s.h2f.stages).dropLast, out := s.h2f.stages.getLastD a }
          f2h := { answer := some r, stages := (some r :: s.f2h.stages).dropLast, out := s.f2h.stages.getLastD (some r) }
          rndInc := none
          norm16 := none
          denorm32 := none
          stimulus := s.stimulus.tail
          freeCount := s.freeCount + 1 }) ∧
  (∀ (s : State) (c : Cycle) (rest : List Cycle) (rm : BitVec 3) (x : BitVec 4), 4 ≤ rm.toNat → rm.toNat ≤ 6 →
    ∃ (inc : Bool) (t : State),
      step { s with stimulus := { c with rndReq := none } :: rest } = .next t ∧
      step { s with stimulus := { c with rndReq := some (rm ++ x) } :: rest } = .next { t with rndInc := some inc })
end

