-- ==== Sys2Proof/Laws/State.lean ====
section
/-! SUPPORT. One lemma per field per update of State, each true by `rfl`: later proofs never unfold a record update. -/

namespace Sys2Proof.Machine

/-! ## setH2fAnswer -/

@[simp] theorem setH2fAnswer_build (s : State) (f : Single) : (s.setH2fAnswer f).build = s.build := rfl
@[simp] theorem setH2fAnswer_answer (s : State) (f : Single) : (s.setH2fAnswer f).h2f.answer = some f := rfl
@[simp] theorem setH2fAnswer_stages (s : State) (f : Single) : (s.setH2fAnswer f).h2f.stages = s.h2f.stages := rfl
@[simp] theorem setH2fAnswer_out (s : State) (f : Single) : (s.setH2fAnswer f).h2f.out = s.h2f.out := rfl
@[simp] theorem setH2fAnswer_f2h (s : State) (f : Single) : (s.setH2fAnswer f).f2h = s.f2h := rfl
@[simp] theorem setH2fAnswer_rndInc (s : State) (f : Single) : (s.setH2fAnswer f).rndInc = s.rndInc := rfl
@[simp] theorem setH2fAnswer_norm16 (s : State) (f : Single) : (s.setH2fAnswer f).norm16 = s.norm16 := rfl
@[simp] theorem setH2fAnswer_denorm32 (s : State) (f : Single) : (s.setH2fAnswer f).denorm32 = s.denorm32 := rfl
@[simp] theorem setH2fAnswer_stimulus (s : State) (f : Single) : (s.setH2fAnswer f).stimulus = s.stimulus := rfl
@[simp] theorem setH2fAnswer_freeCount (s : State) (f : Single) : (s.setH2fAnswer f).freeCount = s.freeCount := rfl

/-! ## setF2hAnswer -/

@[simp] theorem setF2hAnswer_build (s : State) (r : F2hResponse) : (s.setF2hAnswer r).build = s.build := rfl
@[simp] theorem setF2hAnswer_answer (s : State) (r : F2hResponse) : (s.setF2hAnswer r).f2h.answer = some r := rfl
@[simp] theorem setF2hAnswer_stages (s : State) (r : F2hResponse) : (s.setF2hAnswer r).f2h.stages = s.f2h.stages := rfl
@[simp] theorem setF2hAnswer_out (s : State) (r : F2hResponse) : (s.setF2hAnswer r).f2h.out = s.f2h.out := rfl
@[simp] theorem setF2hAnswer_h2f (s : State) (r : F2hResponse) : (s.setF2hAnswer r).h2f = s.h2f := rfl
@[simp] theorem setF2hAnswer_rndInc (s : State) (r : F2hResponse) : (s.setF2hAnswer r).rndInc = s.rndInc := rfl
@[simp] theorem setF2hAnswer_norm16 (s : State) (r : F2hResponse) : (s.setF2hAnswer r).norm16 = s.norm16 := rfl
@[simp] theorem setF2hAnswer_denorm32 (s : State) (r : F2hResponse) : (s.setF2hAnswer r).denorm32 = s.denorm32 := rfl
@[simp] theorem setF2hAnswer_stimulus (s : State) (r : F2hResponse) : (s.setF2hAnswer r).stimulus = s.stimulus := rfl
@[simp] theorem setF2hAnswer_freeCount (s : State) (r : F2hResponse) : (s.setF2hAnswer r).freeCount = s.freeCount := rfl

/-! ## setRndInc -/

@[simp] theorem setRndInc_build (s : State) (b : Bool) : (s.setRndInc b).build = s.build := rfl
@[simp] theorem setRndInc_h2f (s : State) (b : Bool) : (s.setRndInc b).h2f = s.h2f := rfl
@[simp] theorem setRndInc_f2h (s : State) (b : Bool) : (s.setRndInc b).f2h = s.f2h := rfl
@[simp] theorem setRndInc_rndInc (s : State) (b : Bool) : (s.setRndInc b).rndInc = some b := rfl
@[simp] theorem setRndInc_norm16 (s : State) (b : Bool) : (s.setRndInc b).norm16 = s.norm16 := rfl
@[simp] theorem setRndInc_denorm32 (s : State) (b : Bool) : (s.setRndInc b).denorm32 = s.denorm32 := rfl
@[simp] theorem setRndInc_stimulus (s : State) (b : Bool) : (s.setRndInc b).stimulus = s.stimulus := rfl
@[simp] theorem setRndInc_freeCount (s : State) (b : Bool) : (s.setRndInc b).freeCount = s.freeCount := rfl

/-! ## setNorm16 -/

@[simp] theorem setNorm16_build (s : State) (r : Norm16Response) : (s.setNorm16 r).build = s.build := rfl
@[simp] theorem setNorm16_h2f (s : State) (r : Norm16Response) : (s.setNorm16 r).h2f = s.h2f := rfl
@[simp] theorem setNorm16_f2h (s : State) (r : Norm16Response) : (s.setNorm16 r).f2h = s.f2h := rfl
@[simp] theorem setNorm16_rndInc (s : State) (r : Norm16Response) : (s.setNorm16 r).rndInc = s.rndInc := rfl
@[simp] theorem setNorm16_norm16 (s : State) (r : Norm16Response) : (s.setNorm16 r).norm16 = some r := rfl
@[simp] theorem setNorm16_denorm32 (s : State) (r : Norm16Response) : (s.setNorm16 r).denorm32 = s.denorm32 := rfl
@[simp] theorem setNorm16_stimulus (s : State) (r : Norm16Response) : (s.setNorm16 r).stimulus = s.stimulus := rfl
@[simp] theorem setNorm16_freeCount (s : State) (r : Norm16Response) : (s.setNorm16 r).freeCount = s.freeCount := rfl

/-! ## setDenorm32 -/

@[simp] theorem setDenorm32_build (s : State) (r : Denorm32Response) : (s.setDenorm32 r).build = s.build := rfl
@[simp] theorem setDenorm32_h2f (s : State) (r : Denorm32Response) : (s.setDenorm32 r).h2f = s.h2f := rfl
@[simp] theorem setDenorm32_f2h (s : State) (r : Denorm32Response) : (s.setDenorm32 r).f2h = s.f2h := rfl
@[simp] theorem setDenorm32_rndInc (s : State) (r : Denorm32Response) : (s.setDenorm32 r).rndInc = s.rndInc := rfl
@[simp] theorem setDenorm32_norm16 (s : State) (r : Denorm32Response) : (s.setDenorm32 r).norm16 = s.norm16 := rfl
@[simp] theorem setDenorm32_denorm32 (s : State) (r : Denorm32Response) : (s.setDenorm32 r).denorm32 = some r := rfl
@[simp] theorem setDenorm32_stimulus (s : State) (r : Denorm32Response) : (s.setDenorm32 r).stimulus = s.stimulus := rfl
@[simp] theorem setDenorm32_freeCount (s : State) (r : Denorm32Response) : (s.setDenorm32 r).freeCount = s.freeCount := rfl

/-! ## advanceFree -/

@[simp] theorem advanceFree_build (s : State) : s.advanceFree.build = s.build := rfl
@[simp] theorem advanceFree_h2f (s : State) : s.advanceFree.h2f = s.h2f := rfl
@[simp] theorem advanceFree_f2h (s : State) : s.advanceFree.f2h = s.f2h := rfl
@[simp] theorem advanceFree_rndInc (s : State) : s.advanceFree.rndInc = s.rndInc := rfl
@[simp] theorem advanceFree_norm16 (s : State) : s.advanceFree.norm16 = s.norm16 := rfl
@[simp] theorem advanceFree_denorm32 (s : State) : s.advanceFree.denorm32 = s.denorm32 := rfl
@[simp] theorem advanceFree_stimulus (s : State) : s.advanceFree.stimulus = s.stimulus := rfl
@[simp] theorem advanceFree_freeCount (s : State) : s.advanceFree.freeCount = s.freeCount + 1 := rfl

/-! ## answerReserved -/

@[simp] theorem answerReserved_build (q : Request) (s : State) : (s.answerReserved q).build = s.build := by
  cases q <;> rfl
@[simp] theorem answerReserved_h2f (q : Request) (s : State) : (s.answerReserved q).h2f = s.h2f := by cases q <;> rfl
@[simp] theorem answerReserved_stages (q : Request) (s : State) :
    (s.answerReserved q).f2h.stages = s.f2h.stages := by cases q <;> rfl
@[simp] theorem answerReserved_out (q : Request) (s : State) : (s.answerReserved q).f2h.out = s.f2h.out := by
  cases q <;> rfl
@[simp] theorem answerReserved_norm16 (q : Request) (s : State) : (s.answerReserved q).norm16 = s.norm16 := by
  cases q <;> rfl
@[simp] theorem answerReserved_denorm32 (q : Request) (s : State) : (s.answerReserved q).denorm32 = s.denorm32 := by
  cases q <;> rfl
@[simp] theorem answerReserved_stimulus (q : Request) (s : State) : (s.answerReserved q).stimulus = s.stimulus := by
  cases q <;> rfl
@[simp] theorem answerReserved_freeCount (q : Request) (s : State) : (s.answerReserved q).freeCount = s.freeCount := by
  cases q <;> rfl
@[simp] theorem answerReserved_f2h_rndInc (w : BitVec 35) (s : State) :
    (s.answerReserved (.f2h w)).rndInc = s.rndInc := rfl
@[simp] theorem answerReserved_f2h_answer (w : BitVec 35) (s : State) : (s.answerReserved (.f2h w)).f2h.answer =
    some (F2hResponse.ofWord (Config.freeF2hReserved s.freeCount)) := rfl
@[simp] theorem answerReserved_rnd_rndInc (w : BitVec 7) (s : State) :
    (s.answerReserved (.rnd w)).rndInc = some (Config.freeRndReserved s.freeCount) := rfl
@[simp] theorem answerReserved_rnd_f2h (w : BitVec 7) (s : State) : (s.answerReserved (.rnd w)).f2h = s.f2h := rfl

/-! ## beginCycle -/

@[simp] theorem beginCycle_build (s : State) : s.beginCycle.build = s.build := rfl
@[simp] theorem beginCycle_h2f (s : State) : s.beginCycle.h2f = s.h2f.clear := rfl
@[simp] theorem beginCycle_f2h (s : State) : s.beginCycle.f2h = s.f2h.clear := rfl
@[simp] theorem beginCycle_rndInc (s : State) : s.beginCycle.rndInc = none := rfl
@[simp] theorem beginCycle_norm16 (s : State) : s.beginCycle.norm16 = none := rfl
@[simp] theorem beginCycle_denorm32 (s : State) : s.beginCycle.denorm32 = none := rfl
@[simp] theorem beginCycle_stimulus (s : State) : s.beginCycle.stimulus = s.stimulus.tail := rfl
@[simp] theorem beginCycle_freeCount (s : State) : s.beginCycle.freeCount = s.freeCount := rfl

/-! ## endCycle -/

@[simp] theorem endCycle_build (rst : Bool) (s : State) : (s.endCycle rst).build = s.build := rfl
@[simp] theorem endCycle_h2f_run (s : State) : (s.endCycle false).h2f = s.h2f.clock := rfl
@[simp] theorem endCycle_f2h_run (s : State) : (s.endCycle false).f2h = s.f2h.clock := rfl
@[simp] theorem endCycle_h2f_reset (s : State) : (s.endCycle true).h2f = s.h2f.reset := rfl
@[simp] theorem endCycle_f2h_reset (s : State) : (s.endCycle true).f2h = s.f2h.reset := rfl
@[simp] theorem endCycle_rndInc (rst : Bool) (s : State) : (s.endCycle rst).rndInc = s.rndInc := rfl
@[simp] theorem endCycle_norm16 (rst : Bool) (s : State) : (s.endCycle rst).norm16 = s.norm16 := rfl
@[simp] theorem endCycle_denorm32 (rst : Bool) (s : State) : (s.endCycle rst).denorm32 = s.denorm32 := rfl
@[simp] theorem endCycle_stimulus (rst : Bool) (s : State) : (s.endCycle rst).stimulus = s.stimulus := rfl
@[simp] theorem endCycle_freeCount (rst : Bool) (s : State) : (s.endCycle rst).freeCount = s.freeCount + 1 := rfl

/-! ## Channels -/

@[simp] theorem clear_answer {α : Type} (c : Channel α) : c.clear.answer = none := rfl
@[simp] theorem clear_stages {α : Type} (c : Channel α) : c.clear.stages = c.stages := rfl
@[simp] theorem clear_out {α : Type} (c : Channel α) : c.clear.out = c.out := rfl
@[simp] theorem clock_answer {α : Type} (c : Channel α) : c.clock.answer = c.answer := rfl
@[simp] theorem clock_stages {α : Type} (c : Channel α) : c.clock.stages = (c.answer :: c.stages).dropLast := rfl
@[simp] theorem clock_out {α : Type} (c : Channel α) : c.clock.out = c.stages.getLastD c.answer := rfl
@[simp] theorem reset_answer {α : Type} (c : Channel α) : c.reset.answer = none := rfl
@[simp] theorem reset_stages {α : Type} (c : Channel α) : c.reset.stages = c.stages.map (fun _ => none) := rfl
@[simp] theorem reset_out {α : Type} (c : Channel α) : c.reset.out = none := rfl

/-- The clock edge keeps the number of stages. -/
theorem clock_stages_length {α : Type} (c : Channel α) : c.clock.stages.length = c.stages.length := by
  simp

/-- The reset edge keeps the number of stages. -/
theorem reset_stages_length {α : Type} (c : Channel α) : c.reset.stages.length = c.stages.length := by
  simp

end Sys2Proof.Machine
end

