-- ==== Sys2Proof/Laws/Exec.lean ====
section
/-! SUPPORT. What an operation can do, said once; what serving a cycle's requests can do; what a step can do. Later
proofs cite these instead of unfolding the meanings. -/

namespace Sys2Proof.Machine

/-- What no operation touches: the parameters, the pipelines, the output ports and the environment's inputs. -/
structure SameBlock (s t : State) : Prop where
  build : t.build = s.build
  h2fStages : t.h2f.stages = s.h2f.stages
  h2fOut : t.h2f.out = s.h2f.out
  f2hStages : t.f2h.stages = s.f2h.stages
  f2hOut : t.f2h.out = s.f2h.out
  stimulus : t.stimulus = s.stimulus

theorem SameBlock.refl (s : State) : SameBlock s s := ⟨rfl, rfl, rfl, rfl, rfl, rfl⟩

theorem SameBlock.trans {s t u : State} (h : SameBlock s t) (k : SameBlock t u) : SameBlock s u :=
  ⟨k.build.trans h.build, k.h2fStages.trans h.h2fStages, k.h2fOut.trans h.h2fOut, k.f2hStages.trans h.f2hStages,
    k.f2hOut.trans h.f2hOut, k.stimulus.trans h.stimulus⟩

theorem answerH2f_next (f : Single) (s : State) : ∃ t, answerH2f f s = .next t ∧ SameBlock s t :=
  ⟨_, rfl, by constructor <;> simp⟩

theorem answerF2h_next (r : F2hResponse) (s : State) : ∃ t, answerF2h r s = .next t ∧ SameBlock s t :=
  ⟨_, rfl, by constructor <;> simp⟩

theorem answerRnd_next (inc : Bool) (s : State) : ∃ t, answerRnd inc s = .next t ∧ SameBlock s t :=
  ⟨_, rfl, by constructor <;> simp⟩

theorem answerNorm16_next (r : Norm16Response) (s : State) : ∃ t, answerNorm16 r s = .next t ∧ SameBlock s t :=
  ⟨_, rfl, by constructor <;> simp⟩

theorem answerNorm16Free_next (s : State) : ∃ t, answerNorm16Free s = .next t ∧ SameBlock s t :=
  ⟨_, rfl, by constructor <;> simp⟩

theorem answerDenorm32_next (r : Denorm32Response) (s : State) : ∃ t, answerDenorm32 r s = .next t ∧ SameBlock s t :=
  ⟨_, rfl, by constructor <;> simp⟩

theorem answerDenorm32Free_next (s : State) : ∃ t, answerDenorm32Free s = .next t ∧ SameBlock s t :=
  ⟨_, rfl, by constructor <;> simp⟩

/-- Every operation completes and touches no more than its own answer (and the model's counter). -/
theorem exec_next (i : Instr) (s : State) : ∃ t, exec i s = .next t ∧ SameBlock s t := by
  cases i with
  | h2f h => exact answerH2f_next _ s
  | f2hRtz f => exact answerF2h_next _ s
  | f2hRn f => exact answerF2h_next _ s
  | f2hRu f => exact answerF2h_next _ s
  | f2hRd f => exact answerF2h_next _ s
  | f2hInd f => exact answerF2h_next _ s
  | rndRtz sgn l g t => exact answerRnd_next _ s
  | rndRn sgn l g t => exact answerRnd_next _ s
  | rndRu sgn l g t => exact answerRnd_next _ s
  | rndRd sgn l g t => exact answerRnd_next _ s
  | rndInd sgn l g t => exact answerRnd_next _ s
  | subNorm16 m =>
    by_cases h : m = 0#10
    · simpa [exec, execSubNorm16, h] using answerNorm16Free_next s
    · simpa [exec, execSubNorm16, h] using answerNorm16_next (norm16Unit m) s
  | subDenorm32 e8 m23 =>
    by_cases h : 143 ≤ e8.toNat
    · simpa [exec, execSubDenorm32, h] using answerDenorm32Free_next s
    · simpa [exec, execSubDenorm32, h] using answerDenorm32_next (denorm32Unit e8 m23) s

/-- Serving one request: either it decodes and its operation completes, or it is refused by name. -/
theorem serveOne_cases (q : Request) (s : State) :
    (∃ i t, decode q = .ok i ∧ exec i s = .next t ∧ serveOne q s = .next t ∧ SameBlock s t) ∨
    (∃ e, decode q = .error e ∧ serveOne q s = .refused (refusalOf e)) := by
  cases h : decode q with
  | ok i =>
    obtain ⟨t, ht, hb⟩ := exec_next i s
    exact .inl ⟨i, t, rfl, ht, by simp [serveOne, h, ht], hb⟩
  | error e => exact .inr ⟨e, rfl, by simp [serveOne, h]⟩

theorem answerReserved_sameBlock (q : Request) (s : State) : SameBlock s (s.answerReserved q) := by
  constructor <;> simp

/-- A request that decodes is served by running its operation. -/
theorem serve_ok {q : Request} {i : Instr} (h : decode q = .ok i) {s t : State} (ht : exec i s = .next t)
    (qs : List Request) : serve (q :: qs) s = serve qs t := by
  simp [serve, serveOne, h, ht]

/-- A request with a reserved mode code is served by a free value, and the others go on. -/
theorem serve_reserved {q : Request} {e : DecodeError} (h : decode q = .error e) (qs : List Request) (s : State) :
    serve (q :: qs) s = serve qs (s.answerReserved q) := by
  cases e
  simp [serve, serveOne, h, refusalOf]

/-- Serving the requests of a cycle always completes and touches no pipeline, no port, no parameter and no input. -/
theorem serve_next (qs : List Request) (s : State) : ∃ t, serve qs s = .next t ∧ SameBlock s t := by
  induction qs generalizing s with
  | nil => exact ⟨s, rfl, SameBlock.refl s⟩
  | cons q qs ih =>
    cases h : decode q with
    | ok i =>
      obtain ⟨u, hu, hb⟩ := exec_next i s
      obtain ⟨t, ht, hc⟩ := ih u
      exact ⟨t, (serve_ok h hu qs).trans ht, hb.trans hc⟩
    | error e =>
      obtain ⟨t, ht, hc⟩ := ih (s.answerReserved q)
      exact ⟨t, (serve_reserved h qs s).trans ht, (answerReserved_sameBlock q s).trans hc⟩

/-- Every step completes: it serves the cycle's requests and ends the cycle. -/
theorem step_next (s : State) : ∃ u, serve s.requests s.beginCycle = .next u ∧ SameBlock s.beginCycle u ∧
    step s = .next (u.endCycle s.inReset) := by
  obtain ⟨u, hu, hb⟩ := serve_next s.requests s.beginCycle
  exact ⟨u, hu, hb, by simp [step, runCycle, hu, endOutcome]⟩

end Sys2Proof.Machine
end

