-- ==== Sys2Proof/Laws/Operands.lean ====
section
/-! SUPPORT. The fields of a packed word, and the packing of a word's fields. -/

namespace Sys2Proof.Machine

/-- The upper part of a concatenation. -/
theorem extract_append_high {a b : Nat} (x : BitVec a) (y : BitVec b) : (x ++ y).extractLsb' b a = x := by
  ext i hi
  simp only [BitVec.getElem_extractLsb', BitVec.getLsbD_append]
  rw [if_neg (by omega), Nat.add_sub_cancel_left, BitVec.getLsbD_eq_getElem hi]

/-- The lower part of a concatenation. -/
theorem extract_append_low {a b : Nat} (x : BitVec a) (y : BitVec b) : (x ++ y).extractLsb' 0 b = y := by
  ext i hi
  simp only [BitVec.getElem_extractLsb', BitVec.getLsbD_append, Nat.zero_add]
  rw [if_pos hi, BitVec.getLsbD_eq_getElem hi]

/-- A field inside the lower part of a concatenation. -/
theorem extract_append_inner {a b k n : Nat} (x : BitVec a) (y : BitVec b) (h : k + n ≤ b) :
    (x ++ y).extractLsb' k n = y.extractLsb' k n := by
  ext i hi
  simp only [BitVec.getElem_extractLsb', BitVec.getLsbD_append]
  rw [if_pos (by omega)]

/-- The number a concatenation stands for. -/
theorem append_toNat {a b : Nat} (x : BitVec a) (y : BitVec b) : (x ++ y).toNat = x.toNat * 2 ^ b + y.toNat := by
  rw [BitVec.toNat_append, ← Nat.shiftLeft_add_eq_or_of_lt y.isLt, Nat.shiftLeft_eq]

/-! ## The bits of a packed word

The widths of the concatenations are written as sums here, so that the library's lemmas on `++` apply. -/

theorem packMag16_getLsbD (s : Bool) (mag : BitVec 15) (i : Nat) :
    (packMag16 s mag).getLsbD i = if i < 15 then mag.getLsbD i else decide (i = 15) && s := by
  have h : (packMag16 s mag).getLsbD i = (BitVec.ofBool s ++ mag : BitVec (1 + 15)).getLsbD i := rfl
  rw [h, BitVec.getLsbD_append]
  split
  · rfl
  · rw [BitVec.getLsbD_ofBool]
    congr 1
    exact decide_eq_decide.mpr (by omega)

theorem pack16_getLsbD (s : Bool) (e : BitVec 5) (m : BitVec 10) (i : Nat) :
    (pack16 s e m).getLsbD i =
      if i < 10 then m.getLsbD i else if i < 15 then e.getLsbD (i - 10) else decide (i = 15) && s := by
  have h : (pack16 s e m).getLsbD i = (BitVec.ofBool s ++ e ++ m : BitVec (1 + 5 + 10)).getLsbD i := rfl
  rw [h, BitVec.getLsbD_append, BitVec.getLsbD_append, BitVec.getLsbD_ofBool]
  by_cases h10 : i < 10
  · rw [if_pos h10, if_pos h10]
  · rw [if_neg h10, if_neg h10]
    by_cases h15 : i < 15
    · rw [if_pos h15, if_pos (by omega)]
    · rw [if_neg h15, if_neg (by omega)]
      congr 1
      exact decide_eq_decide.mpr (by omega)

theorem pack32_getLsbD (s : Bool) (e : BitVec 8) (m : BitVec 23) (i : Nat) :
    (pack32 s e m).getLsbD i =
      if i < 23 then m.getLsbD i else if i < 31 then e.getLsbD (i - 23) else decide (i = 31) && s := by
  have h : (pack32 s e m).getLsbD i = (BitVec.ofBool s ++ e ++ m : BitVec (1 + 8 + 23)).getLsbD i := rfl
  rw [h, BitVec.getLsbD_append, BitVec.getLsbD_append, BitVec.getLsbD_ofBool]
  by_cases h23 : i < 23
  · rw [if_pos h23, if_pos h23]
  · rw [if_neg h23, if_neg h23]
    by_cases h31 : i < 31
    · rw [if_pos h31, if_pos (by omega)]
    · rw [if_neg h31, if_neg (by omega)]
      congr 1
      exact decide_eq_decide.mpr (by omega)

theorem packMag16_toNat (s : Bool) (mag : BitVec 15) : (packMag16 s mag).toNat = s.toNat * 2 ^ 15 + mag.toNat := by
  have h : (packMag16 s mag).toNat = (BitVec.ofBool s ++ mag : BitVec (1 + 15)).toNat := rfl
  rw [h, append_toNat, BitVec.toNat_ofBool]

theorem pack16_toNat (s : Bool) (e : BitVec 5) (m : BitVec 10) :
    (pack16 s e m).toNat = s.toNat * 2 ^ 15 + e.toNat * 2 ^ 10 + m.toNat := by
  have h : (pack16 s e m).toNat = (BitVec.ofBool s ++ e ++ m : BitVec (1 + 5 + 10)).toNat := rfl
  rw [h, append_toNat, append_toNat, BitVec.toNat_ofBool]
  omega

theorem pack32_toNat (s : Bool) (e : BitVec 8) (m : BitVec 23) :
    (pack32 s e m).toNat = s.toNat * 2 ^ 31 + e.toNat * 2 ^ 23 + m.toNat := by
  have h : (pack32 s e m).toNat = (BitVec.ofBool s ++ e ++ m : BitVec (1 + 8 + 23)).toNat := rfl
  rw [h, append_toNat, append_toNat, BitVec.toNat_ofBool]
  omega

/-! ## The fields of a packed word -/

@[simp] theorem sign16_packMag16 (s : Bool) (mag : BitVec 15) : sign16 (packMag16 s mag) = s := by
  rw [sign16, packMag16_getLsbD]
  simp

@[simp] theorem mag16_packMag16 (s : Bool) (mag : BitVec 15) : mag16 (packMag16 s mag) = mag :=
  extract_append_low (BitVec.ofBool s) mag

@[simp] theorem sign16_pack16 (s : Bool) (e : BitVec 5) (m : BitVec 10) : sign16 (pack16 s e m) = s := by
  rw [sign16, pack16_getLsbD]
  simp

@[simp] theorem exp16_pack16 (s : Bool) (e : BitVec 5) (m : BitVec 10) : exp16 (pack16 s e m) = e := by
  apply BitVec.eq_of_getLsbD_eq
  intro i hi
  rw [exp16, BitVec.getLsbD_extractLsb', pack16_getLsbD, if_neg (by omega), if_pos (by omega), Nat.add_sub_cancel_left,
    decide_eq_true hi, Bool.true_and]

@[simp] theorem man16_pack16 (s : Bool) (e : BitVec 5) (m : BitVec 10) : man16 (pack16 s e m) = m :=
  extract_append_low (BitVec.ofBool s ++ e) m

@[simp] theorem sign32_pack32 (s : Bool) (e : BitVec 8) (m : BitVec 23) : sign32 (pack32 s e m) = s := by
  rw [sign32, pack32_getLsbD]
  simp

@[simp] theorem exp32_pack32 (s : Bool) (e : BitVec 8) (m : BitVec 23) : exp32 (pack32 s e m) = e := by
  apply BitVec.eq_of_getLsbD_eq
  intro i hi
  rw [exp32, BitVec.getLsbD_extractLsb', pack32_getLsbD, if_neg (by omega), if_pos (by omega), Nat.add_sub_cancel_left,
    decide_eq_true hi, Bool.true_and]

@[simp] theorem man32_pack32 (s : Bool) (e : BitVec 8) (m : BitVec 23) : man32 (pack32 s e m) = m :=
  extract_append_low (BitVec.ofBool s ++ e) m

/-! ## A word is the packing of its fields -/

theorem packMag16_fields (h : Half) : packMag16 (sign16 h) (mag16 h) = h := by
  apply BitVec.eq_of_getLsbD_eq
  intro i hi
  rw [packMag16_getLsbD, mag16, sign16, BitVec.getLsbD_extractLsb', Nat.zero_add]
  by_cases h15 : i < 15
  · simp [h15]
  · obtain rfl : i = 15 := by omega
    simp

theorem pack16_fields (h : Half) : pack16 (sign16 h) (exp16 h) (man16 h) = h := by
  apply BitVec.eq_of_getLsbD_eq
  intro i hi
  rw [pack16_getLsbD, man16, exp16, sign16, BitVec.getLsbD_extractLsb', BitVec.getLsbD_extractLsb', Nat.zero_add]
  by_cases h10 : i < 10
  · simp [h10]
  · rw [if_neg h10]
    by_cases h15 : i < 15
    · rw [if_pos h15, decide_eq_true (by omega), Bool.true_and, Nat.add_sub_cancel' (by omega)]
    · obtain rfl : i = 15 := by omega
      simp

theorem pack32_fields (f : Single) : pack32 (sign32 f) (exp32 f) (man32 f) = f := by
  apply BitVec.eq_of_getLsbD_eq
  intro i hi
  rw [pack32_getLsbD, man32, exp32, sign32, BitVec.getLsbD_extractLsb', BitVec.getLsbD_extractLsb', Nat.zero_add]
  by_cases h23 : i < 23
  · simp [h23]
  · rw [if_neg h23]
    by_cases h31 : i < 31
    · rw [if_pos h31, decide_eq_true (by omega), Bool.true_and, Nat.add_sub_cancel' (by omega)]
    · obtain rfl : i = 31 := by omega
      simp

/-- `{S, E, M}` is the sign in front of the magnitude `{E, M}`. -/
theorem pack16_eq_packMag16 (s : Bool) (e : BitVec 5) (m : BitVec 10) : pack16 s e m = packMag16 s (e ++ m) := by
  apply BitVec.eq_of_toNat_eq
  have h : (e ++ m : BitVec 15).toNat = e.toNat * 2 ^ 10 + m.toNat := append_toNat e m
  rw [pack16_toNat, packMag16_toNat, h]
  omega

/-- The magnitude of a binary16 word is `1024 * E + M`. -/
theorem mag16_toNat (h : Half) : (mag16 h).toNat = (exp16 h).toNat * 1024 + (man16 h).toNat := by
  have e := congrArg BitVec.toNat (pack16_fields h)
  have e' := congrArg BitVec.toNat (packMag16_fields h)
  rw [pack16_toNat] at e
  rw [packMag16_toNat] at e'
  omega

@[simp] theorem man16_leftJustify (m : BitVec 10) : (leftJustify m).extractLsb' 13 10 = m :=
  extract_append_high m 0#13

@[simp] theorem low_leftJustify (m : BitVec 10) : (leftJustify m).extractLsb' 0 13 = 0#13 :=
  extract_append_low m 0#13

theorem leftJustify_toNat (m : BitVec 10) : (leftJustify m).toNat = m.toNat * 2 ^ 13 := by
  have h : (leftJustify m).toNat = m.toNat * 2 ^ 13 + (0#13).toNat := append_toNat m 0#13
  rw [h, BitVec.toNat_zero, Nat.add_zero]

/-! ## The significand, the shift and the leading zeros -/

theorem significand_zero (m23 : BitVec 23) : significand 0#8 m23 = m23.toNat := by
  simp [significand]

theorem significand_normal {e8 : BitVec 8} (h : e8 ≠ 0#8) (m23 : BitVec 23) :
    significand e8 m23 = 2 ^ 23 + m23.toNat := by
  simp [significand, h]

/-- `sig` fits 24 bits (41_f2h.md R80). -/
theorem significand_lt (e8 : BitVec 8) (m23 : BitVec 23) : significand e8 m23 < 2 ^ 24 := by
  have := m23.isLt
  unfold significand
  split <;> omega

/-- The leading one of a non-zero number below `2^n` is at bit `n - 1 - k`, with `k` the zeros counted from bit
`n - 1` down. -/
theorem leadingZerosBelow_spec (m : BitVec 10) (hm : m ≠ 0#10) (n : Nat) (hn : m.toNat < 2 ^ n) :
    leadingZerosBelow m n < n ∧ 2 ^ (n - 1 - leadingZerosBelow m n) ≤ m.toNat ∧
      m.toNat < 2 ^ (n - leadingZerosBelow m n) := by
  have hpos : 0 < m.toNat := by
    rcases Nat.eq_zero_or_pos m.toNat with h | h
    · exact absurd (BitVec.eq_of_toNat_eq (by simpa using h)) hm
    · exact h
  induction n with
  | zero => omega
  | succ n ih =>
    unfold leadingZerosBelow
    by_cases hb : m.getLsbD n = true
    · rw [if_pos hb]
      refine ⟨Nat.succ_pos n, ?_, hn⟩
      exact Nat.ge_two_pow_of_testBit hb
    · rw [if_neg hb]
      have hlt : m.toNat < 2 ^ n := by
        by_contra hge
        exact hb (Nat.testBit_of_two_pow_le_and_two_pow_add_one_gt (by omega) hn)
      obtain ⟨h1, h2, h3⟩ := ih hlt
      refine ⟨by omega, ?_, ?_⟩
      · rwa [show n + 1 - 1 - (leadingZerosBelow m n + 1) = n - 1 - leadingZerosBelow m n by omega]
      · rwa [show n + 1 - (leadingZerosBelow m n + 1) = n - leadingZerosBelow m n by omega]

/-- The leading one of a non-zero mantissa is at bit `9 - clz10 m` (43_subnormal_handler.md R121). -/
theorem clz10_spec (m : BitVec 10) (hm : m ≠ 0#10) :
    clz10 m ≤ 9 ∧ 2 ^ (9 - clz10 m) ≤ m.toNat ∧ m.toNat < 2 ^ (10 - clz10 m) := by
  obtain ⟨h1, h2, h3⟩ := leadingZerosBelow_spec m hm 10 m.isLt
  exact ⟨Nat.le_of_lt_succ h1, h2, h3⟩

/-! ## Request words -/

theorem code_ofCode (m : Mode) : Mode.ofCode m.code = some m := by
  cases m <;> rfl

theorem ofCode_eq_none : ∀ rm : BitVec 3, Mode.ofCode rm = none ↔ 4 ≤ rm.toNat ∧ rm.toNat ≤ 6 := by
  decide

theorem f2hWord_mode (m : Mode) (f : Single) : (f2hWord m f).extractLsb' 32 3 = m.code :=
  extract_append_high m.code f

theorem f2hWord_data (m : Mode) (f : Single) : (f2hWord m f).extractLsb' 0 32 = f :=
  extract_append_low m.code f

end Sys2Proof.Machine
end

