-- ==== Sys2Proof/Laws/Cycle.lean ====
section
/-! SUPPORT. What one cycle does, said once: what each channel answers, that the internal interfaces touch nothing else,
and the state a step leads to. Later proofs cite `step_form` instead of unfolding `serve`. -/

namespace Sys2Proof.Machine

theorem exec_f2hOf (m : Mode) (f : Single) (s : State) :
    exec (Instr.f2hOf m f) s = .next (s.setF2hAnswer (f2hUnit s.build m f)) := by
  cases m <;> rfl

theorem exec_rndOf (m : Mode) (sgn l g t : Bool) (s : State) :
    exec (Instr.rndOf m sgn l g t) s = .next (s.setRndInc (rndUnit s.build m sgn l g t)) := by
  cases m <;> rfl

/-! ## The channels -/

/-- What the H2F channel answers in a cycle. -/
def h2fDue (c : Cycle) : Option Single := if c.h2fValidI then some (h2fUnit c.h2fDataI) else none

/-- The F2H response to a request, `n` the count at which a free value is taken. -/
def f2hReply (b : Build) (n : Nat) (rm : BitVec 3) (f : Single) : F2hResponse :=
  match Mode.ofCode rm with
  | some m => f2hUnit b m f
  | none => F2hResponse.ofWord (Config.freeF2hReserved n)

/-- What the F2H channel answers in a cycle. -/
def f2hDue (b : Build) (n : Nat) (c : Cycle) : Option F2hResponse :=
  if c.f2hValidI then some (f2hReply b n c.f2hRmI c.f2hDataI) else none

theorem h2fDue_isSome (c : Cycle) : (h2fDue c).isSome = c.h2fValidI := by
  unfold h2fDue
  cases c.h2fValidI <;> rfl

theorem f2hDue_isSome (b : Build) (n : Nat) (c : Cycle) : (f2hDue b n c).isSome = c.f2hValidI := by
  unfold f2hDue
  cases c.f2hValidI <;> rfl

/-- With a legal code the answer does not depend on the count. -/
theorem f2hDue_legal {c : Cycle} (h : c.f2hLegal = true) (b : Build) (n k : Nat) : f2hDue b n c = f2hDue b k c := by
  unfold Cycle.f2hLegal at h
  unfold f2hDue f2hReply
  cases hv : c.f2hValidI with
  | false => rfl
  | true =>
    rw [hv] at h
    cases hm : Mode.ofCode c.f2hRmI with
    | some m => rfl
    | none => simp [hm] at h

theorem serve_f2h (rm : BitVec 3) (f : Single) (qs : List Request) (s : State) :
    serve (.f2h (rm ++ f) :: qs) s = serve qs (s.setF2hAnswer (f2hReply s.build s.freeCount rm f)) := by
  unfold f2hReply
  cases h : Mode.ofCode rm with
  | some m =>
    refine serve_ok (i := Instr.f2hOf m f) ?_ (exec_f2hOf m f s) qs
    simp only [decode, decodeF2h, extract_append_high, extract_append_low, h]
  | none =>
    refine serve_reserved (e := .reservedMode rm) ?_ qs s
    simp only [decode, decodeF2h, extract_append_high, h]

/-- The state with both channels answering their requests of the coming cycle. -/
def State.afterChannels (s : State) : State :=
  if s.inReset then s.beginCycle
  else
    { s.beginCycle with
      h2f := { s.h2f with answer := h2fDue s.nextCycle }
      f2h := { s.f2h with answer := f2hDue s.build s.freeCount s.nextCycle } }

@[simp] theorem afterChannels_build (s : State) : s.afterChannels.build = s.build := by
  unfold State.afterChannels; split <;> rfl
@[simp] theorem afterChannels_rndInc (s : State) : s.afterChannels.rndInc = none := by
  unfold State.afterChannels; split <;> rfl
@[simp] theorem afterChannels_norm16 (s : State) : s.afterChannels.norm16 = none := by
  unfold State.afterChannels; split <;> rfl
@[simp] theorem afterChannels_denorm32 (s : State) : s.afterChannels.denorm32 = none := by
  unfold State.afterChannels; split <;> rfl
@[simp] theorem afterChannels_stimulus (s : State) : s.afterChannels.stimulus = s.stimulus.tail := by
  unfold State.afterChannels; split <;> rfl
@[simp] theorem afterChannels_freeCount (s : State) : s.afterChannels.freeCount = s.freeCount := by
  unfold State.afterChannels; split <;> rfl

theorem serve_channels (s : State) (qs : List Request) :
    serve (s.nextCycle.channelRequests ++ qs) s.beginCycle = serve qs
      { s.beginCycle with
        h2f := { s.h2f with answer := h2fDue s.nextCycle }
        f2h := { s.f2h with answer := f2hDue s.build s.freeCount s.nextCycle } } := by
  unfold Cycle.channelRequests h2fDue f2hDue
  cases h1 : s.nextCycle.h2fValidI <;> cases h2 : s.nextCycle.f2hValidI
  · rfl
  · exact serve_f2h _ _ qs _
  · exact serve_ok (i := .h2f s.nextCycle.h2fDataI) rfl rfl qs
  · exact (serve_ok (i := .h2f s.nextCycle.h2fDataI) rfl rfl _).trans (serve_f2h _ _ qs _)

/-- A step answers the channels, then the internal interfaces, then ends the cycle. -/
theorem step_eq (s : State) :
    step s = endOutcome s.inReset (serve s.nextCycle.internalRequests s.afterChannels) := by
  unfold step runCycle State.requests State.afterChannels
  cases h : s.inReset with
  | true => rfl
  | false => exact congrArg (endOutcome false) (serve_channels s _)

/-! ## The internal interfaces -/

/-- The value `rnd_inc` for a request word, `n` the count at which a free value is taken. -/
def rndReply (b : Build) (n : Nat) (w : BitVec 7) : Bool :=
  match Mode.ofCode (w.extractLsb' 4 3) with
  | some m => rndUnit b m (w.getLsbD 3) (w.getLsbD 2) (w.getLsbD 1) (w.getLsbD 0)
  | none => Config.freeRndReserved n

theorem serve_rnd (w : BitVec 7) (qs : List Request) (s : State) :
    serve (.rnd w :: qs) s = serve qs (s.setRndInc (rndReply s.build s.freeCount w)) := by
  unfold rndReply
  cases h : Mode.ofCode (w.extractLsb' 4 3) with
  | some m =>
    refine serve_ok ?_ (exec_rndOf m (w.getLsbD 3) (w.getLsbD 2) (w.getLsbD 1) (w.getLsbD 0) s) qs
    simp only [decode, decodeRnd, h]
  | none =>
    refine serve_reserved (e := .reservedMode (w.extractLsb' 4 3)) ?_ qs s
    simp only [decode, decodeRnd, h]

/-- SUB.NORM16 puts some response on its interface and touches nothing else but the counter, whatever the rest holds. -/
theorem exec_subNorm16_frame (m : BitVec 10) (s : State) : ∃ (r : Norm16Response) (n : Nat), ∀ (i : Option Bool),
    exec (.subNorm16 m) { s with rndInc := i } = .next { s with rndInc := i, norm16 := some r, freeCount := n } := by
  by_cases h : m = 0#10
  · exact ⟨Norm16Response.ofWord (Config.freeNorm16 s.freeCount), s.freeCount + 1, fun _ => by
      simp only [exec, execSubNorm16, h, if_true]; rfl⟩
  · exact ⟨norm16Unit m, s.freeCount, fun _ => by simp only [exec, execSubNorm16, h, if_false]; rfl⟩

/-- SUB.DENORM32 puts some response on its interface and touches nothing else but the counter, whatever the rest holds. -/
theorem exec_subDenorm32_frame (e8 : BitVec 8) (m23 : BitVec 23) (s : State) :
    ∃ (r : Denorm32Response) (n : Nat), ∀ (i : Option Bool),
      exec (.subDenorm32 e8 m23) { s with rndInc := i } =
        .next { s with rndInc := i, denorm32 := some r, freeCount := n } := by
  by_cases h : 143 ≤ e8.toNat
  · exact ⟨Denorm32Response.ofWord (Config.freeDenorm32 s.freeCount), s.freeCount + 1, fun _ => by
      simp only [exec, execSubDenorm32, h, if_true]; rfl⟩
  · exact ⟨denorm32Unit e8 m23, s.freeCount, fun _ => by simp only [exec, execSubDenorm32, h, if_false]; rfl⟩

/-- The requests on the SUB interfaces in a cycle. -/
def Cycle.subRequests (c : Cycle) : List Request :=
  (c.norm16Req.map Request.norm16).toList ++ (c.denorm32Req.map Request.denorm32).toList

theorem internalRequests_eq (c : Cycle) :
    c.internalRequests = (c.rndReq.map Request.rnd).toList ++ c.subRequests := by
  simp [Cycle.internalRequests, Cycle.subRequests]

/-- The SUB requests touch the SUB interfaces and the counter, and do not look at RND's. -/
theorem serve_sub (c : Cycle) (s : State) :
    ∃ (a : Option Norm16Response) (d : Option Denorm32Response) (n : Nat), ∀ (i : Option Bool),
      serve c.subRequests { s with rndInc := i } =
        .next { s with rndInc := i, norm16 := a, denorm32 := d, freeCount := n } := by
  unfold Cycle.subRequests
  cases c.norm16Req with
  | none =>
    cases c.denorm32Req with
    | none => exact ⟨s.norm16, s.denorm32, s.freeCount, fun _ => rfl⟩
    | some w =>
      obtain ⟨r, n, k⟩ := exec_subDenorm32_frame (w.extractLsb' 23 8) (w.extractLsb' 0 23) s
      exact ⟨s.norm16, some r, n, fun i => serve_ok (q := .denorm32 w) rfl (k i) []⟩
  | some v =>
    obtain ⟨r, n, k⟩ := exec_subNorm16_frame v s
    cases c.denorm32Req with
    | none => exact ⟨some r, s.denorm32, n, fun i => serve_ok (q := .norm16 v) rfl (k i) []⟩
    | some w =>
      obtain ⟨r', n', k'⟩ := exec_subDenorm32_frame (w.extractLsb' 23 8) (w.extractLsb' 0 23)
        { s with norm16 := some r, freeCount := n }
      exact ⟨some r, some r', n', fun i => (serve_ok (q := .norm16 v) rfl (k i) _).trans
        (serve_ok (q := .denorm32 w) rfl (k' i) [])⟩

/-- What stands on the RND interface after a cycle, `i` what stood there before. -/
def rndDue (i : Option Bool) (b : Build) (n : Nat) (c : Cycle) : Option Bool :=
  match c.rndReq with
  | some w => some (rndReply b n w)
  | none => i

/-- With a legal code the value does not depend on the count. -/
theorem rndDue_legal {c : Cycle} (h : c.rndLegal = true) (i : Option Bool) (b : Build) (n k : Nat) :
    rndDue i b n c = rndDue i b k c := by
  unfold Cycle.rndLegal at h
  unfold rndDue rndReply
  cases hr : c.rndReq with
  | none => rfl
  | some w =>
    cases hm : Mode.ofCode (w.extractLsb' 4 3) with
    | some m => simp only [hm]
    | none => simp [hr, hm] at h

/-- The requests on the internal interfaces touch those interfaces and the counter alone. What SUB answers does not depend
on the request of RND. -/
theorem serve_internal (c : Cycle) (s : State) :
    ∃ (a : Option Norm16Response) (d : Option Denorm32Response) (n : Nat), ∀ r : Option (BitVec 7),
      serve ({ c with rndReq := r } : Cycle).internalRequests s =
        .next { s with
          rndInc := rndDue s.rndInc s.build s.freeCount { c with rndReq := r }
          norm16 := a
          denorm32 := d
          freeCount := n } := by
  obtain ⟨a, d, n, k⟩ := serve_sub c s
  refine ⟨a, d, n, fun r => ?_⟩
  rw [internalRequests_eq]
  cases r with
  | none => exact k s.rndInc
  | some w => exact (serve_rnd w _ s).trans (k (some (rndReply s.build s.freeCount w)))

/-! ## The step -/

/-- The clock edge of a channel that answers `a` in this cycle, or the reset edge. -/
def Channel.cycle {α : Type} (rst : Bool) (a : Option α) (c : Channel α) : Channel α :=
  if rst then c.reset else ({ c with answer := a } : Channel α).clock

/-- Everything a step does: it always completes, each channel moves on with its own answer, RND shows its own value, and
what the SUB interfaces show does not depend on RND's request. -/
theorem step_form (s : State) :
    ∃ (a : Option Norm16Response) (d : Option Denorm32Response) (n : Nat),
      step s = .next
        { build := s.build
          h2f := s.h2f.cycle s.inReset (h2fDue s.nextCycle)
          f2h := s.f2h.cycle s.inReset (f2hDue s.build s.freeCount s.nextCycle)
          rndInc := rndDue none s.build s.freeCount s.nextCycle
          norm16 := a
          denorm32 := d
          stimulus := s.stimulus.tail
          freeCount := n + 1 } ∧
      (s.nextCycle.internalRequests = [] → a = none ∧ d = none ∧ n = s.freeCount) := by
  obtain ⟨a, d, n, k⟩ := serve_internal s.nextCycle s.afterChannels
  have h : serve s.nextCycle.internalRequests s.afterChannels = _ := k s.nextCycle.rndReq
  refine ⟨a, d, n, ?_, fun he => ?_⟩
  · rw [step_eq, h]
    unfold State.afterChannels Channel.cycle
    cases s.inReset <;> rfl
  · rw [he] at h
    have e := Host.Outcome.next.inj h
    exact ⟨by simpa using (congrArg State.norm16 e).symm, by simpa using (congrArg State.denorm32 e).symm,
      by simpa using (congrArg State.freeCount e).symm⟩

end Sys2Proof.Machine
end

