-- ==== Sys2Proof/Laws/PerInstr.lean ====
section
/-! SUPPORT. One law per operation of CORE: its request word has the width of its row of opcode_table.json and holds the
row's selecting bits. -/

namespace Sys2Proof.Laws.RowFit

/-- The encoding of an operation fits its row of opcode_table.json. -/
def Statement (i : Instr) : Prop := i.row.fits (encode i) = true

/-- The bits above the lower part of a concatenation are the upper part. -/
theorem append_shift {a b : Nat} (x : BitVec a) (y : BitVec b) : (x ++ y).toNat >>> b = x.toNat := by
  rw [BitVec.toNat_append, ← Nat.shiftLeft_add_eq_or_of_lt y.isLt, Nat.shiftLeft_eq, Nat.shiftRight_eq_div_pow,
    Nat.mul_comm, Nat.mul_add_div (Nat.two_pow_pos b), Nat.div_eq_of_lt y.isLt, Nat.add_zero]

/-- A word has no bit above its width. -/
theorem shift_width {n : Nat} (x : BitVec n) : x.toNat >>> n = 0 := by
  rw [Nat.shiftRight_eq_div_pow, Nat.div_eq_of_lt x.isLt]

theorem f2hWord_shift (m : Mode) (f : Single) : (f2hWord m f).toNat >>> 32 = m.code.toNat :=
  append_shift m.code f

theorem rndWord_shift (m : Mode) (sgn l g t : Bool) : (rndWord m sgn l g t).toNat >>> 4 = m.code.toNat := by
  cases m <;> cases sgn <;> cases l <;> cases g <;> cases t <;> decide

theorem h2f (h : Half) : Statement (.h2f h) := by
  simp only [Statement, TableRow.fits, Instr.row, encode, Request.width, Request.toNat, shift_width]
  rfl

theorem f2hRtz (f : Single) : Statement (.f2hRtz f) := by
  simp only [Statement, TableRow.fits, Instr.row, encode, Request.width, Request.toNat, f2hWord_shift]
  rfl

theorem f2hRn (f : Single) : Statement (.f2hRn f) := by
  simp only [Statement, TableRow.fits, Instr.row, encode, Request.width, Request.toNat, f2hWord_shift]
  rfl

theorem f2hRu (f : Single) : Statement (.f2hRu f) := by
  simp only [Statement, TableRow.fits, Instr.row, encode, Request.width, Request.toNat, f2hWord_shift]
  rfl

theorem f2hRd (f : Single) : Statement (.f2hRd f) := by
  simp only [Statement, TableRow.fits, Instr.row, encode, Request.width, Request.toNat, f2hWord_shift]
  rfl

theorem f2hInd (f : Single) : Statement (.f2hInd f) := by
  simp only [Statement, TableRow.fits, Instr.row, encode, Request.width, Request.toNat, f2hWord_shift]
  rfl

theorem rndRtz (sgn l g t : Bool) : Statement (.rndRtz sgn l g t) := by
  simp only [Statement, TableRow.fits, Instr.row, encode, Request.width, Request.toNat, rndWord_shift]
  rfl

theorem rndRn (sgn l g t : Bool) : Statement (.rndRn sgn l g t) := by
  simp only [Statement, TableRow.fits, Instr.row, encode, Request.width, Request.toNat, rndWord_shift]
  rfl

theorem rndRu (sgn l g t : Bool) : Statement (.rndRu sgn l g t) := by
  simp only [Statement, TableRow.fits, Instr.row, encode, Request.width, Request.toNat, rndWord_shift]
  rfl

theorem rndRd (sgn l g t : Bool) : Statement (.rndRd sgn l g t) := by
  simp only [Statement, TableRow.fits, Instr.row, encode, Request.width, Request.toNat, rndWord_shift]
  rfl

theorem rndInd (sgn l g t : Bool) : Statement (.rndInd sgn l g t) := by
  simp only [Statement, TableRow.fits, Instr.row, encode, Request.width, Request.toNat, rndWord_shift]
  rfl

theorem subNorm16 (m : BitVec 10) : Statement (.subNorm16 m) := by
  simp only [Statement, TableRow.fits, Instr.row, encode, Request.width, Request.toNat, shift_width]
  rfl

theorem subDenorm32 (e8 : BitVec 8) (m23 : BitVec 23) : Statement (.subDenorm32 e8 m23) := by
  have h : (e8 ++ m23 : BitVec 31).toNat >>> 31 = 0 := shift_width (e8 ++ m23 : BitVec 31)
  simp only [Statement, TableRow.fits, Instr.row, encode, Request.width, Request.toNat, h]
  rfl

end Sys2Proof.Laws.RowFit
end

