-- ==== Sys2Proof/Laws/Units.lean ====
section
/-! SUPPORT. One spec lemma per shared operation of the units: what the cut of a significand is on integers, and that no
width of 41_f2h.md R90 is exceeded. -/

namespace Sys2Proof.Machine

/-- The shift count of 41_f2h.md R90: 13 to 125. -/
theorem alignShift_bounds (e8 : BitVec 8) : 13 ≤ alignShift e8 ∧ alignShift e8 ≤ 125 := by
  unfold alignShift
  split <;> omega

/-- Below the normal range the shift is `-e - 1` (41_f2h.md R86). -/
theorem alignShift_eq_unbiasedExp {e8 : BitVec 8} (h : e8.toNat < 113) : (alignShift e8 : Int) = -unbiasedExp e8 - 1 := by
  unfold alignShift unbiasedExp
  rw [if_neg (by omega)]
  by_cases h0 : e8 = 0#8
  · subst h0
    decide
  · have hp : e8.toNat ≠ 0 := fun hz => h0 (BitVec.eq_of_toNat_eq (by simpa using hz))
    have h0' : ¬ e8 = 0 := h0
    rw [if_neg h0']
    omega

/-- The kept bits fit 11 bits, since the shift is at least 13 (43_subnormal_handler.md R122). -/
theorem kept_lt (e8 : BitVec 8) (m23 : BitVec 23) : significand e8 m23 / 2 ^ alignShift e8 < 2 ^ 11 := by
  have h : (2 : Nat) ^ 13 ≤ 2 ^ alignShift e8 := Nat.pow_le_pow_right (by decide) (alignShift_bounds e8).1
  rw [Nat.div_lt_iff_lt_mul (Nat.two_pow_pos _)]
  have := significand_lt e8 m23
  omega

theorem denorm32Unit_kept (e8 : BitVec 8) (m23 : BitVec 23) :
    (denorm32Unit e8 m23).kept.toNat = significand e8 m23 / 2 ^ alignShift e8 := by
  simp only [denorm32Unit, BitVec.toNat_ofNat]
  exact Nat.mod_eq_of_lt (kept_lt e8 m23)

theorem denorm32Unit_ebase {e8 : BitVec 8} (h : e8.toNat ≤ 142) (m23 : BitVec 23) :
    (denorm32Unit e8 m23).ebase.toNat = e8.toNat - 113 := by
  unfold denorm32Unit
  split
  · simp only [BitVec.toNat_ofNat]
    omega
  · simp only [BitVec.toNat_ofNat]
    omega

/-- A number cut at two adjacent places, the guard bit standing between them. -/
theorem cut_eq (n k : Nat) (hk : 1 ≤ k) :
    n = n / 2 ^ k * 2 ^ k + n / 2 ^ (k - 1) % 2 * 2 ^ (k - 1) + n % 2 ^ (k - 1) := by
  obtain ⟨j, rfl⟩ : ∃ j, k = j + 1 := ⟨k - 1, by omega⟩
  rw [Nat.add_sub_cancel]
  have h1 : n / 2 ^ j / 2 = n / 2 ^ (j + 1) := by rw [Nat.div_div_eq_div_mul, Nat.pow_succ]
  have h2 := Nat.div_add_mod n (2 ^ j)
  have h3 := Nat.div_add_mod (n / 2 ^ j) 2
  rw [h1] at h3
  calc n = 2 ^ j * (n / 2 ^ j) + n % 2 ^ j := h2.symm
    _ = 2 ^ j * (2 * (n / 2 ^ (j + 1)) + n / 2 ^ j % 2) + n % 2 ^ j := by rw [h3]
    _ = _ := by rw [Nat.pow_succ]; ring

/-- The increment as a number, in the width of the magnitude. -/
theorem inc_toNat (inc : Bool) : ((BitVec.ofBool inc).setWidth 15).toNat = inc.toNat := by
  cases inc <;> rfl

/-- The 15-bit sum of 41_f2h.md R86 never wraps when the base exponent is at most 29 (R90). -/
theorem roundedMag_toNat (d : Denorm32Response) (inc : Bool) (h : d.ebase.toNat ≤ 29) :
    (roundedMag d inc).toNat = 1024 * d.ebase.toNat + d.kept.toNat + inc.toNat := by
  have hk := d.kept.isLt
  have hi : inc.toNat ≤ 1 := Bool.toNat_le inc
  unfold roundedMag
  rw [BitVec.toNat_add, BitVec.toNat_add, inc_toNat, BitVec.toNat_shiftLeft, BitVec.toNat_setWidth,
    BitVec.toNat_setWidth, Nat.shiftLeft_eq]
  omega

/-- The exponent field of a normal result of H2F (40_h2f.md R71): no wrap in 8 bits. -/
theorem rebias_toNat (e : BitVec 5) : (e.setWidth 8 + 112#8).toNat = e.toNat + 112 := by
  have := e.isLt
  rw [BitVec.toNat_add, BitVec.toNat_setWidth, BitVec.toNat_ofNat]
  omega

/-- The exponent field of a normalised subnormal (43_subnormal_handler.md R121): no borrow. -/
theorem norm16Unit_e8 (m : BitVec 10) (hm : m ≠ 0#10) : (norm16Unit m).e8.toNat = 112 - clz10 m := by
  have h := (clz10_spec m hm).1
  simp only [norm16Unit, BitVec.toNat_sub, BitVec.toNat_ofNat]
  omega

end Sys2Proof.Machine
end

