-- ==== Sys2Proof/Machine/Text.lean ====
section
/-! DEFINITION. The one-line text of a transaction (30_encoding.md R60). -/

namespace Sys2Proof.Machine

/-- One hexadecimal digit, capital as R60's examples have it. -/
def hexDigit (n : Nat) : Char :=
  if n < 10 then Char.ofNat (48 + n) else Char.ofNat (55 + n)

/-- The `k` low hexadecimal digits of `n`, most significant first. -/
def hexDigits : Nat → Nat → List Char
  | 0, _ => []
  | k + 1, n => hexDigits k (n / 16) ++ [hexDigit (n % 16)]

/-- `0x` and `k` hexadecimal digits. -/
def hexText (k n : Nat) : String := "0x" ++ String.ofList (hexDigits k n)

/-- A bit as a digit. -/
def bitText (b : Bool) : String := if b then "1" else "0"

/-- The left of `->`: the operation and its operands (30_encoding.md R60). -/
def requestText : Instr → String
  | .h2f h => "H2F " ++ hexText 4 h.toNat
  | .f2hRtz f => "F2H.RTZ " ++ hexText 8 f.toNat
  | .f2hRn f => "F2H.RN " ++ hexText 8 f.toNat
  | .f2hRu f => "F2H.RU " ++ hexText 8 f.toNat
  | .f2hRd f => "F2H.RD " ++ hexText 8 f.toNat
  | .f2hInd f => "F2H.IND " ++ hexText 8 f.toNat
  | .rndRtz sgn l g t => "RND.RTZ s=" ++ bitText sgn ++ " l=" ++ bitText l ++ " g=" ++ bitText g ++ " t=" ++ bitText t
  | .rndRn sgn l g t => "RND.RN s=" ++ bitText sgn ++ " l=" ++ bitText l ++ " g=" ++ bitText g ++ " t=" ++ bitText t
  | .rndRu sgn l g t => "RND.RU s=" ++ bitText sgn ++ " l=" ++ bitText l ++ " g=" ++ bitText g ++ " t=" ++ bitText t
  | .rndRd sgn l g t => "RND.RD s=" ++ bitText sgn ++ " l=" ++ bitText l ++ " g=" ++ bitText g ++ " t=" ++ bitText t
  | .rndInd sgn l g t => "RND.IND s=" ++ bitText sgn ++ " l=" ++ bitText l ++ " g=" ++ bitText g ++ " t=" ++ bitText t
  | .subNorm16 m => "SUB.NORM16 " ++ hexText 3 m.toNat
  | .subDenorm32 e8 m23 => "SUB.DENORM32 E8=" ++ Nat.repr e8.toNat ++ " M23=" ++ hexText 6 m23.toNat

/-- The right of `->` for an F2H operation. -/
def f2hResponseText (r : F2hResponse) : String :=
  hexText 4 r.h.toNat ++ " [ovf=" ++ bitText r.ovf ++ " inx=" ++ bitText r.inx ++ "]"

/-- The right of `->` for a SUB.NORM16 operation. -/
def norm16ResponseText (r : Norm16Response) : String :=
  "e8=" ++ Nat.repr r.e8.toNat ++ " mn=" ++ hexText 3 r.mn.toNat

/-- The right of `->` for a SUB.DENORM32 operation. -/
def denorm32ResponseText (r : Denorm32Response) : String :=
  "ebase=" ++ Nat.repr r.ebase.toNat ++ " kept=" ++ hexText 3 r.kept.toNat ++ " g=" ++ bitText r.g ++ " t=" ++ bitText r.t

/-- The right of `->` (30_encoding.md R60). -/
def responseText (b : Build) : Instr → String
  | .h2f h => hexText 8 (h2fUnit h).toNat
  | .f2hRtz f => f2hResponseText (f2hUnit b .rtz f)
  | .f2hRn f => f2hResponseText (f2hUnit b .rn f)
  | .f2hRu f => f2hResponseText (f2hUnit b .ru f)
  | .f2hRd f => f2hResponseText (f2hUnit b .rd f)
  | .f2hInd f => f2hResponseText (f2hUnit b .ind f)
  | .rndRtz sgn l g t => "inc=" ++ bitText (rndUnit b .rtz sgn l g t)
  | .rndRn sgn l g t => "inc=" ++ bitText (rndUnit b .rn sgn l g t)
  | .rndRu sgn l g t => "inc=" ++ bitText (rndUnit b .ru sgn l g t)
  | .rndRd sgn l g t => "inc=" ++ bitText (rndUnit b .rd sgn l g t)
  | .rndInd sgn l g t => "inc=" ++ bitText (rndUnit b .ind sgn l g t)
  | .subNorm16 m => norm16ResponseText (norm16Unit m)
  | .subDenorm32 e8 m23 => denorm32ResponseText (denorm32Unit e8 m23)

/-- The name of a tie rule. -/
def tiesText : Ties → String
  | .even => "EVEN"
  | .away => "AWAY"

/-- The assumption in braces. -/
def braced (s : String) : String := String.ofList [Char.ofNat 123] ++ s ++ String.ofList [Char.ofNat 125]

/-- The end of a line whose response depends on a parameter: the assumption in braces (30_encoding.md R60). -/
def assumptionText (b : Build) (i : Instr) : String :=
  if responseText { b with nearestTies := .even } i ≠ responseText { b with nearestTies := .away } i then
    " " ++ braced ("NEAREST_TIES=" ++ tiesText b.nearestTies)
  else if responseText { b with indTies := .even } i ≠ responseText { b with indTies := .away } i then
    " " ++ braced ("IND_TIES=" ++ tiesText b.indTies)
  else ""

/-- A whole transaction on one line (30_encoding.md R60); none for a request that breaks its precondition, which has no
specified response to write (log 20). -/
def transactionText (b : Build) (i : Instr) : Option String :=
  if i.wellFormed then some (requestText i ++ " -> " ++ responseText b i ++ assumptionText b i) else none

/-- The encoding of a request as hexadecimal digits, as many as its width takes: four for H2F, nine for F2H, the top one
`rm` (30_encoding.md R60). -/
def requestWordText (q : Request) : String := hexText ((q.width + 3) / 4) q.toNat

end Sys2Proof.Machine
end

