-- ==== Sys2Proof/Tests/Slice0.lean ====
section
/-! SUPPORT. Tests. Expected values are the spec's own: worked examples of the rules, 95_test_vectors.md, and the tables
of 42_rounding_unit.md R116 and 43_subnormal_handler.md R121, R122; the source of each is in its comment.
The `witness_` theorems show states and operands that meet the hypotheses of the statement they are named after. -/

namespace Sys2Proof.Tests

open Sys2Proof.Machine

/-! ## Helpers -/

/-- A state with empty pipelines, `NEAREST_TIES = EVEN`, `IND_TIES = AWAY`, and the given latency and inputs. -/
def bench (latency : Nat) (cs : List Cycle) : State :=
  { build := { nearestTies := .even, indTies := .away, latency := latency }
    h2f := Channel.afterReset Single latency
    f2h := Channel.afterReset F2hResponse latency
    rndInc := none
    norm16 := none
    denorm32 := none
    stimulus := cs
    freeCount := 0 }

/-- The same with the two tie rules exchanged. -/
def benchAway (latency : Nat) (cs : List Cycle) : State :=
  { bench latency cs with build := { nearestTies := .away, indTies := .even, latency := latency } }

/-- The next state, if there is one. -/
def nextOf : Host.Outcome State Fault Refusal → Option State
  | .next s => some s
  | _ => none

/-- The refusal, if there is one. -/
def refusalIn : Host.Outcome State Fault Refusal → Option Refusal
  | .refused r => some r
  | _ => none

/-- H2F's answer to an operation. -/
def h2fAnswer (s : State) (i : Instr) : Option Single := (nextOf (exec i s)).bind (fun t => t.h2f.answer)

/-- F2H's answer to an operation, as an 18-bit response word. -/
def f2hAnswer (s : State) (i : Instr) : Option (BitVec 18) :=
  (nextOf (exec i s)).bind (fun t => t.f2h.answer.map F2hResponse.word)

/-- RND's answer to an operation. -/
def rndAnswer (s : State) (i : Instr) : Option Bool := (nextOf (exec i s)).bind (fun t => t.rndInc)

/-- A cycle with a request on both channels. -/
def both (h : BitVec 16) (rm : BitVec 3) (f : BitVec 32) : Cycle :=
  { Cycle.idle with h2fValidI := true, h2fDataI := h, f2hValidI := true, f2hDataI := f, f2hRmI := rm }

/-- A cycle with `rst` at 1 and requests that are to be discarded, one of them with a reserved mode. -/
def resetting : Cycle := { both 0x3C00#16 0b100#3 0x3F800000#32 with rst := true }

/-! ## WellFormed: an ill-formed term for each check -/

theorem test_wellFormed_refuses_norm16_zero : (Instr.subNorm16 0#10).wellFormed = false := by decide
theorem test_wellFormed_refuses_denorm32_143 : (Instr.subDenorm32 143#8 0#23).wellFormed = false := by decide
theorem test_wellFormed_accepts_the_bounds :
    (Instr.subNorm16 1#10).wellFormed = true ∧ (Instr.subDenorm32 142#8 0x7FFFFF#23).wellFormed = true := by decide

/-! ## Decoding: words written out bit by bit -/

/-- 95_test_vectors.md section 2.3: 0xBC00 on the H2F channel. -/
theorem test_decode_h2f : decode (.h2f 0b1011110000000000#16) = .ok (.h2f 0xBC00#16) := by decide

/-- 30_encoding.md R51, R52: `rm = 000`, then the binary32 word 0x3F801FFF. -/
theorem test_decode_f2hRtz :
    decode (.f2h 0b00000111111100000000001111111111111#35) = .ok (.f2hRtz 0x3F801FFF#32) := by decide

/-- `rm = 001`, 95_test_vectors.md section 2.3. -/
theorem test_decode_f2hRn :
    decode (.f2h 0b00100111111100000000001111111111111#35) = .ok (.f2hRn 0x3F801FFF#32) := by decide

/-- `rm = 010`, 95_test_vectors.md section 2.3: 0x477FE001. -/
theorem test_decode_f2hRu :
    decode (.f2h 0b01001000111011111111110000000000001#35) = .ok (.f2hRu 0x477FE001#32) := by decide

/-- `rm = 011`, 95_test_vectors.md section 2.3: 0xC7800000. -/
theorem test_decode_f2hRd :
    decode (.f2h 0b01111000111100000000000000000000000#35) = .ok (.f2hRd 0xC7800000#32) := by decide

/-- `rm = 111`, 95_test_vectors.md section 2.3: 0x3F800000. -/
theorem test_decode_f2hInd :
    decode (.f2h 0b11100111111100000000000000000000000#35) = .ok (.f2hInd 0x3F800000#32) := by decide

/-- 95_test_vectors.md section 2.3: `rm = 4` on F2H is refused, and 30_encoding.md R53: 5 and 6 too. -/
theorem test_decode_reserved :
    decode (.f2h 0x43F800000#35) = .error (.reservedMode 4#3) ∧
    decode (.f2h 0x500000000#35) = .error (.reservedMode 5#3) ∧
    decode (.rnd 0b1100000#7) = .error (.reservedMode 6#3) := by decide

/-- 95_test_vectors.md section 2.4: the five RND words. -/
theorem test_decode_rnd :
    decode (.rnd 0b0000111#7) = .ok (.rndRtz false true true true) ∧
    decode (.rnd 0b0010110#7) = .ok (.rndRn false true true false) ∧
    decode (.rnd 0b0101011#7) = .ok (.rndRu true false true true) ∧
    decode (.rnd 0b0111001#7) = .ok (.rndRd true false false true) ∧
    decode (.rnd 0b1110010#7) = .ok (.rndInd false false true false) := by decide

/-- 30_encoding.md R54: the 10-bit word is `m`. -/
theorem test_decode_norm16 : decode (.norm16 0b0000000011#10) = .ok (.subNorm16 0x003#10) := by decide

/-- 30_encoding.md R54: `E8 = 127` in bits 30..23, `M23 = 0x001FFF` below. -/
theorem test_decode_denorm32 :
    decode (.denorm32 0b0111111100000000001111111111111#31) = .ok (.subDenorm32 127#8 0x001FFF#23) := by decide

/-- The host's numbering tells the channel by the number of bits. -/
theorem test_decodeTableWord :
    decodeTableWord 16 0xBC00 = some (.h2f 0xBC00#16) ∧
    decodeTableWord 40 0x3C7800000 = some (.f2hRd 0xC7800000#32) ∧
    decodeTableWord 40 0x400000000 = none ∧
    decodeTableWord 8 0x39 = some (.rndRd true false false true) ∧
    decodeTableWord 10 0x003 = some (.subNorm16 0x003#10) ∧
    decodeTableWord 32 0x3F801FFF = some (.subDenorm32 127#8 0x001FFF#23) := by decide

/-! ## H2F -/

/-- 40_h2f.md R70 to R74, worked examples: -1, 65504, a signaling NaN, the two ends of the subnormals, -0. -/
theorem test_h2f_examples :
    h2fAnswer (bench 0 []) (.h2f 0xBC00#16) = some 0xBF800000#32 ∧
    h2fAnswer (bench 0 []) (.h2f 0x7BFF#16) = some 0x477FE000#32 ∧
    h2fAnswer (bench 0 []) (.h2f 0xFDFF#16) = some 0xFFBFE000#32 ∧
    h2fAnswer (bench 0 []) (.h2f 0x0001#16) = some 0x33800000#32 ∧
    h2fAnswer (bench 0 []) (.h2f 0x03FF#16) = some 0x387FC000#32 ∧
    h2fAnswer (bench 0 []) (.h2f 0x8000#16) = some 0x80000000#32 := by decide

/-- 95_test_vectors.md section 2.1: 0x01FF and 0x0003. -/
theorem test_h2f_subnormals :
    h2fAnswer (bench 0 []) (.h2f 0x01FF#16) = some 0x37FF8000#32 ∧
    h2fAnswer (bench 0 []) (.h2f 0x0003#16) = some 0x34400000#32 := by decide

/-! ## F2H: response words of 95_test_vectors.md sections 2.2 and 2.3 -/

theorem test_f2hRtz :
    f2hAnswer (bench 0 []) (.f2hRtz 0x3F801FFF#32) = some 0x13C00#18 ∧
    f2hAnswer (bench 0 []) (.f2hRtz 0x47800000#32) = some 0x37BFF#18 ∧
    f2hAnswer (bench 0 []) (.f2hRtz 0x477FFFFF#32) = some 0x17BFF#18 := by decide

theorem test_f2hRn :
    f2hAnswer (bench 0 []) (.f2hRn 0x3F801FFF#32) = some 0x13C01#18 ∧
    f2hAnswer (bench 0 []) (.f2hRn 0x477FF000#32) = some 0x37C00#18 ∧
    f2hAnswer (bench 0 []) (.f2hRn 0x387FE000#32) = some 0x10400#18 := by decide

/-- The tie at `1 + 2^-11`, `l = 0`, under both tie rules (41_f2h.md R92). -/
theorem test_f2hRn_tie :
    f2hAnswer (bench 0 []) (.f2hRn 0x3F801000#32) = some 0x13C00#18 ∧
    f2hAnswer (benchAway 0 []) (.f2hRn 0x3F801000#32) = some 0x13C01#18 := by decide

theorem test_f2hRu :
    f2hAnswer (bench 0 []) (.f2hRu 0x477FE001#32) = some 0x37C00#18 ∧
    f2hAnswer (bench 0 []) (.f2hRu 0x00000001#32) = some 0x10001#18 ∧
    f2hAnswer (bench 0 []) (.f2hRu 0xC7800000#32) = some 0x3FBFF#18 := by decide

theorem test_f2hRd :
    f2hAnswer (bench 0 []) (.f2hRd 0xC7800000#32) = some 0x3FC00#18 ∧
    f2hAnswer (bench 0 []) (.f2hRd 0xBF800001#32) = some 0x1BC01#18 ∧
    f2hAnswer (bench 0 []) (.f2hRd 0x80000001#32) = some 0x18001#18 := by decide

theorem test_f2hInd :
    f2hAnswer (bench 0 []) (.f2hInd 0x3F800000#32) = some 0x03C00#18 ∧
    f2hAnswer (bench 0 []) (.f2hInd 0x3F801000#32) = some 0x13C01#18 ∧
    f2hAnswer (benchAway 0 []) (.f2hInd 0x3F801000#32) = some 0x13C00#18 := by decide

/-- 41_f2h.md R83: the forced signaling NaN, the truncated quiet NaN; R84: minus infinity. -/
theorem test_f2h_specials :
    f2hAnswer (bench 0 []) (.f2hRn 0x7F800001#32) = some 0x07D00#18 ∧
    f2hAnswer (bench 0 []) (.f2hRu 0xFFC00001#32) = some 0x0FE00#18 ∧
    f2hAnswer (bench 0 []) (.f2hRtz 0xFF800000#32) = some 0x0FC00#18 := by decide

/-! ## RND and SUB -/

/-- 42_rounding_unit.md, worked examples of R111 to R115. -/
theorem test_rnd :
    rndAnswer (bench 0 []) (.rndRtz false true true true) = some false ∧
    rndAnswer (bench 0 []) (.rndRn false false true false) = some false ∧
    rndAnswer (benchAway 0 []) (.rndRn false false true false) = some true ∧
    rndAnswer (bench 0 []) (.rndRn true true true false) = some true ∧
    rndAnswer (bench 0 []) (.rndRu false false false true) = some true ∧
    rndAnswer (bench 0 []) (.rndRu true false true true) = some false ∧
    rndAnswer (bench 0 []) (.rndRd true false false true) = some true ∧
    rndAnswer (bench 0 []) (.rndRd false true true true) = some false ∧
    rndAnswer (bench 0 []) (.rndInd false false true false) = some true ∧
    rndAnswer (benchAway 0 []) (.rndInd false false true false) = some false := by decide

/-- 43_subnormal_handler.md R121: `SUB.NORM16 0x003 -> e8=104 mn=0x200`, and the two ends. -/
theorem test_subNorm16 :
    ((nextOf (exec (.subNorm16 0x003#10) (bench 0 []))).bind (fun t => t.norm16)) = some ⟨104#8, 0x200#10⟩ ∧
    norm16Unit 0x001#10 = ⟨103#8, 0x000#10⟩ ∧ norm16Unit 0x3FF#10 = ⟨112#8, 0x3FE#10⟩ := by decide

/-- 43_subnormal_handler.md R122, the worked examples. -/
theorem test_subDenorm32 :
    ((nextOf (exec (.subDenorm32 127#8 0x001FFF#23) (bench 0 []))).bind (fun t => t.denorm32)) =
      some ⟨14#5, 0x400#11, true, true⟩ ∧
    denorm32Unit 112#8 0x7FC001#23 = ⟨0#5, 0x3FF#11, false, true⟩ ∧
    denorm32Unit 103#8 0x400000#23 = ⟨0#5, 0x001#11, true, false⟩ ∧
    denorm32Unit 102#8 0x000000#23 = ⟨0#5, 0x000#11, true, false⟩ ∧
    denorm32Unit 0#8 0x000001#23 = ⟨0#5, 0x000#11, false, true⟩ := by decide

/-! ## Values, text, pseudo-operations -/

/-- 95_test_vectors.md section 1.1: 0x0001 is `2^-24`, 0x7BFF is 65504, 0x1400 is `2^-10`. -/
theorem test_value16 :
    value16 0x0001#16 = .fin false (2 ^ 125) ∧ value16 0x7BFF#16 = .fin false (65504 * 2 ^ 149) ∧
    value16 0x1400#16 = .fin false (2 ^ 139) ∧ value16 0x8000#16 = .fin true 0 := by decide

/-- 30_encoding.md R49: 65520 is 0x477FF000, `2^-149` is 0x00000001. -/
theorem test_value32 :
    value32 0x477FF000#32 = .fin false unitsOf65520 ∧ value32 0x00000001#32 = .fin false 1 ∧
    value32 0x47800000#32 = .fin false unitsOf65536 ∧ value32 0xFF800000#32 = .inf true := by decide

/-- 30_encoding.md R60 and the worked examples written in its form. -/
theorem test_text :
    transactionText (bench 0 []).build (.h2f 0xBC00#16) = some "H2F 0xBC00 -> 0xBF800000" ∧
    transactionText (bench 0 []).build (.f2hRtz 0x3F801FFF#32) =
      some "F2H.RTZ 0x3F801FFF -> 0x3C00 [ovf=0 inx=1]" ∧
    transactionText (bench 0 []).build (.subDenorm32 127#8 0x001FFF#23) =
      some "SUB.DENORM32 E8=127 M23=0x001FFF -> ebase=14 kept=0x400 g=1 t=1" ∧
    requestWordText (encode (.f2hRd 0xC7800000#32)) = "0x3C7800000" := by decide

/-- A tie names the parameter it assumes, in braces (30_encoding.md R60). -/
theorem test_text_assumption :
    transactionText (bench 0 []).build (.f2hRn 0x3F801000#32) =
      some ("F2H.RN 0x3F801000 -> 0x3C00 [ovf=0 inx=1] " ++ braced "NEAREST_TIES=EVEN") := by decide

/-- 95_test_vectors.md P1: the round trip of 0xFC01 passes through 0xFF802000. -/
theorem test_roundtrip :
    (nextOf (runPseudo (.roundtrip .rtz 0xFC01#16) (bench 0 []))).map (fun t => (t.h2f.answer, t.f2h.answer)) =
      some (some 0xFF802000#32, some ⟨0xFC01#16, false, false⟩) := by decide

/-! ## The block -/

/-- 95_test_vectors.md P5, cycle 0, with `LATENCY = 0`: both channels answer in the cycle of the request. -/
theorem test_step_two_channels :
    (nextOf (step (bench 0 [both 0x7D00#16 0b001#3 0x7F800001#32]))).map (fun t => (t.h2f.out, t.f2h.out)) =
      some (some 0x7FA00000#32, some ⟨0x7D00#16, false, false⟩) := by decide

/-- 10_state.md R21 with `LATENCY = 1`: nothing leaves in the cycle of the request, the response in the next. -/
theorem test_step_latency_one :
    ((nextOf (step (bench 1 [both 0x3C00#16 0b000#3 0x47800000#32]))).map (fun t => (t.h2f.out, t.h2f.stages))) =
      some (none, [some 0x3F800000#32]) ∧
    ((nextOf (runCycles 2 (bench 1 [both 0x3C00#16 0b000#3 0x47800000#32]))).map (fun t => (t.h2f.out, t.f2h.out))) =
      some (some 0x3F800000#32, some ⟨0x7BFF#16, true, true⟩) := by decide

/-- 70_reset_and_hazards.md R150: requests presented while `rst` is 1 are discarded, a reserved mode included. -/
theorem test_step_reset :
    (nextOf (step (bench 2 [resetting]))).map (fun t => (t.h2fValidO, t.f2hValidO, t.h2f.stages)) =
      some (false, false, [none, none]) := by decide

/-- 93_implementation_defined.md U3: a transaction with a reserved mode code is refused. -/
theorem test_reserved_transaction_is_refused :
    refusalIn (serveOne (.f2h 0x43F800000#35) (bench 0 [])) = some (.reservedMode 4#3) := by decide

/-- 30_encoding.md R53, 10_state.md R23: beside it H2F answers, and a response is due on F2H; nothing in flight is lost. -/
theorem test_step_reserved_mode :
    (nextOf (runCycles 2 (bench 1 [both 0x3C00#16 0b000#3 0x47800000#32, both 0xBC00#16 0b101#3 0x3F800000#32]))).map
        (fun t => (t.h2f.answer, t.h2f.out, t.f2h.out, t.f2h.stages.map Option.isSome)) =
      some (some 0xBF800000#32, some 0x3F800000#32, some ⟨0x7BFF#16, true, true⟩, [true]) := by decide

/-- A word placed by the host is run by the next step, from the state after reset, whose parameters are open. -/
theorem test_step_runs_placed_word :
    (nextOf (step (State.reset.withFetchWord 16 0xBC00))).bind (fun t => t.h2f.answer) = some 0xBF800000#32 ∧
    ((nextOf (step (State.reset.withFetchWord 40 0x3C7800000))).bind (fun t => t.f2h.answer)) =
      some ⟨0xFC00#16, true, true⟩ := by decide

/-! ## Witnesses -/

theorem witness_EncodeOfDecodeIsTheWord : decode (.f2h 0x73F800000#35) = .ok (.f2hInd 0x3F800000#32) := by decide

theorem witness_OnlyReservedModesAreRejected : decode (.rnd 0b1000000#7) = .error (.reservedMode 4#3) := by decide

theorem witness_MagnitudeOrderIsValueOrder : (mag16 0x7C00#16).toNat ≤ 0x7C00 ∧ (mag16 0xFBFF#16).toNat ≤ 0x7C00 := by
  decide

theorem witness_H2fNormalResult :
    (1 ≤ (exp16 0x0400#16).toNat ∧ (exp16 0x0400#16).toNat ≤ 30) ∧
    (1 ≤ (exp16 0xFBFF#16).toNat ∧ (exp16 0xFBFF#16).toNat ≤ 30) := by decide

theorem witness_H2fSpecialResult :
    (exp16 0xFC00#16 = 31#5 ∧ man16 0xFC00#16 = 0#10) ∧ (exp16 0x7C01#16 = 31#5 ∧ man16 0x7C01#16 ≠ 0#10) := by decide

theorem witness_H2fZeroResult : exp16 0x8000#16 = 0#5 ∧ man16 0x8000#16 = 0#10 := by decide

theorem witness_H2fSubnormalResult : exp16 0x0001#16 = 0#5 ∧ man16 0x0001#16 ≠ 0#10 := by decide

theorem witness_H2fIsExact : class16 0x8000#16 ≠ .nan ∧ class16 0x7C00#16 ≠ .nan := by decide

theorem witness_H2fIsInjective :
    ∃ t t', exec (.h2f 0x3C00#16) (bench 0 []) = .next t ∧ exec (.h2f 0x3C00#16) (bench 2 []) = .next t' ∧
      t.h2f.answer = t'.h2f.answer := ⟨_, _, rfl, rfl, rfl⟩

theorem witness_F2hNanResult :
    (exp32 0x7F800001#32 = 255#8 ∧ man32 0x7F800001#32 ≠ 0#23) ∧
    (exp32 0xFFC00001#32 = 255#8 ∧ man32 0xFFC00001#32 ≠ 0#23) := by decide

theorem witness_F2hInfinityResult : exp32 0xFF800000#32 = 255#8 ∧ man32 0xFF800000#32 = 0#23 := by decide

theorem witness_F2hOverflowResult :
    (143 ≤ (exp32 0x47800000#32).toNat ∧ (exp32 0x47800000#32).toNat ≤ 254) ∧
    (143 ≤ (exp32 0xFF7FFFFF#32).toNat ∧ (exp32 0xFF7FFFFF#32).toNat ≤ 254) := by decide

theorem witness_F2hGeneralResult :
    (exp32 0x477FF000#32).toNat ≤ 142 ∧ (exp32 0x80000001#32).toNat ≤ 142 ∧ (exp32 0x38800000#32).toNat = 113 := by decide

theorem witness_F2hMeetsTheValueContract : exp32 0x7F7FFFFF#32 ≠ 255#8 ∧ exp32 0x80000000#32 ≠ 255#8 := by decide

theorem witness_F2hTinySourceTable :
    (exp32 0x33000000#32).toNat = 102 ∧ (exp32 0x32FFFFFF#32).toNat ≤ 102 ∧ (exp32 0x80000000#32).toNat ≤ 102 := by decide

theorem witness_F2hRtzTruncates :
    (exp32 0x337FFFFF#32 ≠ 255#8 ∧ (value32 0x337FFFFF#32).units < unitsOfSmallest16) ∧
    (exp32 0x477FE000#32 ≠ 255#8 ∧ unitsOf65504 ≤ (value32 0x477FE000#32).units) := by decide

theorem witness_F2hRnCorners :
    (value32 0x33000000#32).units = 2 ^ 124 ∧
    (2 ^ 124 < (value32 0x33000001#32).units ∧ (value32 0x337FFFFF#32).units < 2 ^ 125 ∧
      2 ^ 124 < (value32 0x337FFFFF#32).units) ∧
    (value32 0x32FFFFFF#32).units < 2 ^ 124 ∧
    exp32 0x33000000#32 ≠ 255#8 ∧ exp32 0x337FFFFF#32 ≠ 255#8 ∧ exp32 0x32FFFFFF#32 ≠ 255#8 := by decide

theorem witness_F2hRuCorners :
    (sign32 0x00000001#32 = false ∧ 0 < (value32 0x00000001#32).units ∧
      (value32 0x00000001#32).units < unitsOfSmallest16) ∧
    (sign32 0xB37FFFFF#32 = true ∧ (value32 0xB37FFFFF#32).units < unitsOfSmallest16) ∧
    (sign32 0x477FE001#32 = false ∧ unitsOf65504 < (value32 0x477FE001#32).units) ∧
    (sign32 0xC7800000#32 = true ∧ unitsOf65536 ≤ (value32 0xC7800000#32).units) ∧
    exp32 0xC7800000#32 ≠ 255#8 ∧ exp32 0x477FE001#32 ≠ 255#8 ∧ exp32 0xB37FFFFF#32 ≠ 255#8 ∧
    exp32 0x00000001#32 ≠ 255#8 := by decide

theorem witness_F2hRdCorners :
    (sign32 0x80000001#32 = true ∧ 0 < (value32 0x80000001#32).units ∧
      (value32 0x80000001#32).units < unitsOfSmallest16) ∧
    (sign32 0x337FFFFF#32 = false ∧ (value32 0x337FFFFF#32).units < unitsOfSmallest16) ∧
    (sign32 0x47800000#32 = false ∧ unitsOf65536 ≤ (value32 0x47800000#32).units) ∧
    (sign32 0xC77FE001#32 = true ∧ unitsOf65504 < (value32 0xC77FE001#32).units) ∧
    exp32 0x47800000#32 ≠ 255#8 ∧ exp32 0xC77FE001#32 ≠ 255#8 ∧ exp32 0x337FFFFF#32 ≠ 255#8 ∧
    exp32 0x80000001#32 ≠ 255#8 := by decide

theorem witness_F2hIndDiffersFromRnOnTiesOnly :
    ((exp32 0x3F801001#32).toNat ≤ 142 ∧
      ¬ ((denorm32Unit (exp32 0x3F801001#32) (man32 0x3F801001#32)).g = true ∧
        (denorm32Unit (exp32 0x3F801001#32) (man32 0x3F801001#32)).t = false)) ∧
    143 ≤ (exp32 0x47800000#32).toNat := by decide

theorem witness_F2hDirectedModesEnclose : exp32 0x3DCCCCCD#32 ≠ 255#8 := by decide

theorem witness_F2hExactSourcesAgreeInAllModes :
    (f2hUnit (bench 0 []).build .ru 0x3F802000#32).inx = false ∧
    ({ bench 0 [] with build := ⟨.away, .away, 0⟩ }).build.nearestTies =
      ({ bench 0 [] with build := ⟨.away, .away, 0⟩ }).build.indTies := by decide

theorem witness_F2hIsMonotone :
    exp32 0xBF800001#32 ≠ 255#8 ∧ exp32 0x00000001#32 ≠ 255#8 ∧
    Ext.le (value32 0xBF800001#32) (value32 0x00000001#32) = true := by decide

theorem witness_F2hSubnormalResultBoundary :
    (exp32 0x387FE000#32).toNat = 112 ∧
    (denorm32Unit (exp32 0x387FE000#32) (man32 0x387FE000#32)).kept.toNat + 1 = 0x400 ∧
    (f2hUnit (bench 0 []).build .rn 0x387FE000#32).h = 0x0400#16 := by decide

theorem witness_RndLaws : ¬ (true = true ∧ true = false) ∧ ¬ (false = true ∧ false = false) := by decide

theorem witness_Norm16Result : (1#10 : BitVec 10) ≠ 0#10 := by decide

theorem witness_Denorm32Result : (142#8 : BitVec 8).toNat ≤ 142 ∧ (0#8 : BitVec 8).toNat ≤ 142 := by decide

theorem witness_Denorm32Table :
    113 ≤ (113#8 : BitVec 8).toNat ∧ (112#8 : BitVec 8).toNat = 113 - 1 ∧ (103#8 : BitVec 8).toNat = 113 - 10 ∧
    (102#8 : BitVec 8).toNat = 102 ∧ (101#8 : BitVec 8).toNat ≤ 101 ∧ 1 ≤ (1#8 : BitVec 8).toNat := by decide

theorem witness_Denorm32OfLargeExponentStillAnswers : 143 ≤ (143#8 : BitVec 8).toNat ∧ 143 ≤ (255#8 : BitVec 8).toNat := by
  decide

theorem witness_StepRunsTheDecodedOperation :
    (bench 1 [Cycle.presenting (.rnd 0x39#7)]).requests = [.rnd 0x39#7] ∧
    decode (.rnd 0x39#7) = .ok (.rndRd true false false true) := by decide

theorem witness_TwoChannelCycle :
    (bench 1 [both 0x7D00#16 0b111#3 0x7F800001#32]).inReset = false ∧
    (bench 1 [both 0x7D00#16 0b111#3 0x7F800001#32]).nextCycle.h2fValidI = true ∧
    (bench 1 [both 0x7D00#16 0b111#3 0x7F800001#32]).nextCycle.f2hValidI = true ∧
    (bench 1 [both 0x7D00#16 0b111#3 0x7F800001#32]).nextCycle.f2hRmI = Mode.ind.code ∧
    (bench 1 [both 0x7D00#16 0b111#3 0x7F800001#32]).nextCycle.internalRequests = [] := by decide

theorem witness_IdleCycle :
    (bench 1 []).inReset = false ∧ (bench 1 []).nextCycle.h2fValidI = false ∧ (bench 1 []).nextCycle.f2hValidI = false ∧
    (bench 1 []).nextCycle.internalRequests = [] := by decide

theorem witness_ResetCycle :
    (bench 1 [resetting]).nextCycle.rst = true ∧ 0 < (bench 1 [resetting]).build.latency ∧
    (bench 1 [resetting]).nextCycle.internalRequests = [] := by decide

theorem witness_StepKeepsPipelineDepth :
    (bench 2 []).DepthInv ∧ ∃ t, step (bench 2 []) = .next t := ⟨by decide, _, rfl⟩

theorem witness_StepKeepsResponsesSound :
    (bench 1 [both 0x3C00#16 0b000#3 0x47800000#32]).H2fInv ∧
    (bench 1 [both 0x3C00#16 0b000#3 0x47800000#32]).F2hInv ∧
    ∃ t, step (bench 1 [both 0x3C00#16 0b000#3 0x47800000#32]) = .next t := ⟨by decide, by decide, _, rfl⟩

theorem witness_ResponseLeavesAfterLatency :
    (bench 1 [both 0x3C00#16 0b000#3 0x47800000#32]).DepthInv ∧
    ∃ t u, step (bench 1 [both 0x3C00#16 0b000#3 0x47800000#32]) = .next t ∧ t.noResetFor t.build.latency = true ∧
      runCycles t.build.latency t = .next u := ⟨by decide, _, _, rfl, by decide, rfl⟩

theorem witness_BuildParametersNeverChange : ∃ t, step (bench 0 []) = .next t := ⟨_, rfl⟩

theorem witness_ChannelsAreIndependent :
    (bench 0 [both 0x3C00#16 0b000#3 0x3F800000#32]).nextCycle.h2fDataI =
      (bench 0 [both 0x3C00#16 0b010#3 0x477FE001#32]).nextCycle.h2fDataI ∧
    (bench 0 [both 0x3C00#16 0b000#3 0x3F800000#32]).nextCycle.f2hLegal = true ∧
    (bench 0 [both 0x3C00#16 0b100#3 0x3F800000#32]).nextCycle.f2hLegal = false ∧
    (bench 0 [both 0x3C00#16 0b100#3 0x3F800000#32]).freeCount = (bench 0 [both 0#16 0b100#3 0x3F800000#32]).freeCount ∧
    (bench 0 [both 0x3C00#16 0b000#3 0x3F800000#32]).f2h.validBits =
      (bench 0 [both 0x3C00#16 0b100#3 0x3F800000#32]).f2h.validBits ∧
    (∃ t, step (bench 0 [both 0x3C00#16 0b000#3 0x3F800000#32]) = .next t) ∧
    (∃ t, step (bench 0 [both 0x3C00#16 0b010#3 0x477FE001#32]) = .next t) ∧
    (∃ t, step (bench 0 [both 0x7BFF#16 0b000#3 0x3F800000#32]) = .next t) :=
  ⟨by decide, by decide, by decide, by decide, by decide, ⟨_, rfl⟩, ⟨_, rfl⟩, ⟨_, rfl⟩⟩

theorem witness_AnswersDoNotDependOnHistory :
    ∃ s' : State, s'.h2f ≠ (bench 0 []).h2f ∧ s'.build = (bench 0 []).build ∧ s'.nextCycle = (bench 0 []).nextCycle ∧
      (bench 0 []).nextCycle.f2hLegal = true ∧ (bench 0 []).nextCycle.rndLegal = true ∧
      (∃ t, step (bench 0 []) = .next t) ∧ ∃ t', step s' = .next t' :=
  ⟨(bench 0 []).setH2fAnswer 0#32, by decide, rfl, rfl, by decide, by decide, ⟨_, rfl⟩, _, rfl⟩

theorem witness_InvalidInputsAreIgnored : Cycle.idle.h2fValidI = false ∧ Cycle.idle.f2hValidI = false := by decide

theorem witness_ReservedModeIsRefused : 4 ≤ (4#3 : BitVec 3).toNat ∧ (6#3 : BitVec 3).toNat ≤ 6 ∧
    refusalIn (serveOne (.rnd (6#3 ++ 0#4)) (bench 0 [])) = some (.reservedMode 6#3) := by decide

theorem witness_EveryCycleIsAnswered : (bench 1 [both 0x3C00#16 0b110#3 0#32]).inReset = false := by decide

theorem witness_ReservedModeDisturbsNothing :
    (bench 1 [both 0#16 0b100#3 0#32]).inReset = false ∧ (bench 1 [both 0#16 0b100#3 0#32]).nextCycle.f2hValidI = true ∧
    (bench 1 [both 0#16 0b100#3 0#32]).nextCycle.h2fValidI = true ∧
    4 ≤ (bench 1 [both 0#16 0b100#3 0#32]).nextCycle.f2hRmI.toNat ∧
    (bench 1 [both 0#16 0b110#3 0#32]).nextCycle.f2hRmI.toNat ≤ 6 ∧
    (bench 1 [both 0#16 0b100#3 0#32]).nextCycle.internalRequests = [] := by decide

theorem witness_ZeroLatencyIsCombinational :
    (bench 0 [both 0x3C00#16 0b001#3 0#32]).DepthInv ∧ (bench 0 [both 0x3C00#16 0b001#3 0#32]).build.latency = 0 ∧
    (bench 0 [both 0x3C00#16 0b001#3 0#32]).nextCycle.h2fValidI = true ∧
    (bench 0 [both 0x3C00#16 0b001#3 0#32]).nextCycle.f2hValidI = true ∧
    (bench 0 [both 0x3C00#16 0b001#3 0#32]).nextCycle.f2hRmI = Mode.rn.code ∧
    ∃ t, step (bench 0 [both 0x3C00#16 0b001#3 0#32]) = .next t :=
  ⟨by decide, by decide, by decide, by decide, by decide, _, rfl⟩

end Sys2Proof.Tests
end

/-! ## Unit H2F: its cases, the values of its words, and the statements O8 to O12 (40_h2f.md R70 to R75) -/

namespace Sys2Proof.Machine

/-! ### What H2F answers, one equation per case of R70 -/

/-- H2F puts its unit's word into its own answer slot and touches nothing else (40_h2f.md R70). -/
theorem exec_h2f (h : Half) (s : State) : exec (.h2f h) s = .next (s.setH2fAnswer (h2fUnit h)) := rfl

theorem h2fUnit_special {h : Half} (he : exp16 h = 31#5) : h2fUnit h = h2fSpecial (sign16 h) (man16 h) := by
  simp [h2fUnit, he]

theorem h2fUnit_zero {h : Half} (he : exp16 h = 0#5) (hm : man16 h = 0#10) : h2fUnit h = h2fZero (sign16 h) := by
  simp [h2fUnit, he, hm]

theorem h2fUnit_subnormal {h : Half} (he : exp16 h = 0#5) (hm : man16 h ≠ 0#10) :
    h2fUnit h = h2fSubnormal (sign16 h) (man16 h) := by
  simp [h2fUnit, he, hm]

theorem h2fUnit_normal {h : Half} (h0 : exp16 h ≠ 0#5) (h31 : exp16 h ≠ 31#5) :
    h2fUnit h = h2fNormal (sign16 h) (exp16 h) (man16 h) := by
  simp [h2fUnit, h0, h31]

/-! ### Classes and values by the exponent field -/

theorem class16_of_exp_ones {h : Half} (he : exp16 h = 31#5) :
    class16 h = if man16 h = 0#10 then .infinite else .nan := by
  by_cases hm : man16 h = 0#10 <;> simp [class16, he, hm]

theorem class32_pack32_ones (s : Bool) (m : BitVec 23) :
    class32 (pack32 s 255#8 m) = if m = 0#23 then .infinite else .nan := by
  by_cases hm : m = 0#23 <;> simp [class32, hm]

theorem class32_pack32_normal (s : Bool) {e : BitVec 8} (m : BitVec 23) (h0 : e ≠ 0#8) (h255 : e ≠ 255#8) :
    class32 (pack32 s e m) = .normal := by
  simp [class32, h0, h255]

theorem value16_zero_exp {h : Half} (he : exp16 h = 0#5) :
    value16 h = .fin (sign16 h) ((man16 h).toNat * 2 ^ 125) := by
  simp [value16, units16, he]

theorem value16_normal {h : Half} (h0 : exp16 h ≠ 0#5) (h31 : exp16 h ≠ 31#5) :
    value16 h = .fin (sign16 h) ((1024 + (man16 h).toNat) * 2 ^ ((exp16 h).toNat - 1) * 2 ^ 125) := by
  have hE : (exp16 h).toNat ≠ 0 := BitVec.toNat_ne.mp h0
  simp [value16, units16, h31, hE]

theorem value16_infinite {h : Half} (he : exp16 h = 31#5) (hm : man16 h = 0#10) : value16 h = .inf (sign16 h) := by
  simp [value16, he, hm]

theorem value32_pack32_finite (s : Bool) {e : BitVec 8} (m : BitVec 23) (he : e ≠ 255#8) :
    value32 (pack32 s e m) = .fin s (significand e m * 2 ^ (e.toNat - 1)) := by
  simp [value32, he]

theorem value32_pack32_infinite (s : Bool) : value32 (pack32 s 255#8 0#23) = .inf s := by
  simp [value32]

theorem exp_ne_of_bounds {e : BitVec 8} (h1 : 1 ≤ e.toNat) (h254 : e.toNat ≤ 254) : e ≠ 0#8 ∧ e ≠ 255#8 :=
  ⟨BitVec.toNat_ne.mpr (Nat.ne_of_gt h1), BitVec.toNat_ne.mpr (Nat.ne_of_lt (Nat.lt_succ_of_le h254))⟩

/-! ### The left-justified mantissa (R71, R72) -/

theorem leftJustify_eq_zero {m : BitVec 10} : leftJustify m = 0#23 ↔ m = 0#10 := by
  constructor
  · intro h
    rw [← man16_leftJustify m, h]
    rfl
  · rintro rfl
    rfl

/-- The quiet bit goes from bit 9 of the binary16 mantissa to bit 22 of the binary32 mantissa. -/
theorem leftJustify_quietBit (m : BitVec 10) : (leftJustify m).getLsbD 22 = m.getLsbD 9 := by
  rw [← man16_leftJustify m, BitVec.getLsbD_extractLsb', man16_leftJustify]
  rfl

/-! ### The exponent field and mantissa of a normalised subnormal (R74) -/

theorem norm16Unit_e8_eq {m : BitVec 10} (hm : m ≠ 0#10) : (norm16Unit m).e8 = BitVec.ofNat 8 (112 - clz10 m) := by
  apply BitVec.eq_of_toNat_eq
  rw [norm16Unit_e8 m hm, BitVec.toNat_ofNat]
  omega

theorem norm16Unit_mn_eq (m : BitVec 10) : (norm16Unit m).mn = BitVec.ofNat 10 (m.toNat * 2 ^ (clz10 m + 1)) := by
  apply BitVec.eq_of_toNat_eq
  rw [norm16Unit, BitVec.toNat_shiftLeft, Nat.shiftLeft_eq, BitVec.toNat_ofNat]

/-- The shift by `clz10 m + 1` moves the leading one, and it alone, out of the ten bits. -/
theorem norm16Unit_mn_toNat {m : BitVec 10} (hm : m ≠ 0#10) :
    1024 + (norm16Unit m).mn.toNat = m.toNat * 2 ^ (clz10 m + 1) := by
  obtain ⟨hk, hlo, hhi⟩ := clz10_spec m hm
  have h1 : 2 ^ (9 - clz10 m) * 2 ^ (clz10 m + 1) = 1024 := by
    rw [← Nat.pow_add, show 9 - clz10 m + (clz10 m + 1) = 10 by omega]
  have h2 : 2 ^ (10 - clz10 m) * 2 ^ (clz10 m + 1) = 2048 := by
    rw [← Nat.pow_add, show 10 - clz10 m + (clz10 m + 1) = 11 by omega]
  have hge := Nat.mul_le_mul_right (2 ^ (clz10 m + 1)) hlo
  have hlt := Nat.mul_lt_mul_of_pos_right hhi (Nat.two_pow_pos (clz10 m + 1))
  rw [norm16Unit_mn_eq, BitVec.toNat_ofNat]
  omega

/-- A normalised exponent field is neither 0 nor 255: the result is a normal number. -/
theorem norm16Unit_e8_ne {m : BitVec 10} (hm : m ≠ 0#10) :
    (norm16Unit m).e8 ≠ 0#8 ∧ (norm16Unit m).e8 ≠ 255#8 := by
  have hk := (clz10_spec m hm).1
  have he := norm16Unit_e8 m hm
  exact exp_ne_of_bounds (by omega) (by omega)

/-! ### H2F keeps the value -/

theorem significand_leftJustify {e : BitVec 8} (he : e ≠ 0#8) (m : BitVec 10) :
    significand e (leftJustify m) = (1024 + m.toNat) * 2 ^ 13 := by
  rw [significand_normal he, leftJustify_toNat]
  omega

/-- A rebiased exponent field is neither 0 nor 255: the result is a normal number. -/
theorem rebias_ne (e : BitVec 5) : e.setWidth 8 + 112#8 ≠ 0#8 ∧ e.setWidth 8 + 112#8 ≠ 255#8 := by
  have hlt := e.isLt
  have he := rebias_toNat e
  exact exp_ne_of_bounds (by omega) (by omega)

theorem value32_h2fNormal {h : Half} (h0 : exp16 h ≠ 0#5) (h31 : exp16 h ≠ 31#5) :
    value32 (h2fNormal (sign16 h) (exp16 h) (man16 h)) = value16 h := by
  have hE : (exp16 h).toNat ≠ 0 := BitVec.toNat_ne.mp h0
  obtain ⟨e0, e255⟩ := rebias_ne (exp16 h)
  rw [h2fNormal, value32_pack32_finite _ _ e255, significand_leftJustify e0, rebias_toNat, value16_normal h0 h31,
    Nat.mul_assoc, Nat.mul_assoc, ← Nat.pow_add, ← Nat.pow_add,
    show 13 + ((exp16 h).toNat + 112 - 1) = (exp16 h).toNat - 1 + 125 by omega]

theorem value32_h2fSubnormal {h : Half} (he : exp16 h = 0#5) (hm : man16 h ≠ 0#10) :
    value32 (h2fSubnormal (sign16 h) (man16 h)) = value16 h := by
  obtain ⟨e0, e255⟩ := norm16Unit_e8_ne hm
  have hk := (clz10_spec (man16 h) hm).1
  rw [h2fSubnormal, value32_pack32_finite _ _ e255, significand_leftJustify e0, norm16Unit_e8 _ hm,
    norm16Unit_mn_toNat hm, value16_zero_exp he, Nat.mul_assoc, Nat.mul_assoc, ← Nat.pow_add, ← Nat.pow_add,
    show clz10 (man16 h) + 1 + (13 + (112 - clz10 (man16 h) - 1)) = 125 by omega]

theorem value32_h2fZero {h : Half} (he : exp16 h = 0#5) (hm : man16 h = 0#10) :
    value32 (h2fZero (sign16 h)) = value16 h := by
  have h255 : (0#8 : BitVec 8) ≠ 255#8 := by decide
  rw [h2fZero, value32_pack32_finite _ _ h255, significand_zero, value16_zero_exp he, hm]
  simp

theorem value32_h2fSpecial_infinite {h : Half} (he : exp16 h = 31#5) (hm : man16 h = 0#10) :
    value32 (h2fSpecial (sign16 h) (man16 h)) = value16 h := by
  rw [h2fSpecial, leftJustify_eq_zero.mpr hm, value32_pack32_infinite, value16_infinite he hm]

/-- `value32(H2F(h)) = value16(h)` for every half that is no NaN (40_h2f.md R75), case by case of R70. -/
theorem value32_h2fUnit {h : Half} (hn : class16 h ≠ .nan) : value32 (h2fUnit h) = value16 h := by
  by_cases h31 : exp16 h = 31#5
  · have hm : man16 h = 0#10 := by
      by_contra hm
      exact hn (by rw [class16_of_exp_ones h31, if_neg hm])
    rw [h2fUnit_special h31, value32_h2fSpecial_infinite h31 hm]
  · by_cases h0 : exp16 h = 0#5
    · by_cases hm : man16 h = 0#10
      · rw [h2fUnit_zero h0 hm, value32_h2fZero h0 hm]
      · rw [h2fUnit_subnormal h0 hm, value32_h2fSubnormal h0 hm]
    · rw [h2fUnit_normal h0 h31, value32_h2fNormal h0 h31]

/-! ### H2F keeps the kind of a NaN (R72) -/

theorem class32_h2fSpecial {h : Half} (he : exp16 h = 31#5) :
    class32 (h2fSpecial (sign16 h) (man16 h)) = class16 h := by
  rw [h2fSpecial, class32_pack32_ones, class16_of_exp_ones he]
  simp only [leftJustify_eq_zero]

theorem quietBit_h2fSpecial (s : Bool) (m : BitVec 10) : (man32 (h2fSpecial s m)).getLsbD 22 = m.getLsbD 9 := by
  rw [h2fSpecial, man32_pack32, leftJustify_quietBit]

theorem quiet32_h2fSpecial {h : Half} (he : exp16 h = 31#5) :
    quiet32 (h2fSpecial (sign16 h) (man16 h)) = quiet16 h := by
  rw [quiet32, quiet16, class32_h2fSpecial he, quietBit_h2fSpecial]

theorem signaling32_h2fSpecial {h : Half} (he : exp16 h = 31#5) :
    signaling32 (h2fSpecial (sign16 h) (man16 h)) = signaling16 h := by
  rw [signaling32, signaling16, class32_h2fSpecial he, quietBit_h2fSpecial]

/-! ### The statements -/

/-- Settles O8: R71's case of the unit, whose 8-bit sum `E + 112` does not wrap. -/
theorem h2fNormalResult : Obligations.H2fNormalResult := by
  intro h s h1 h30
  have h0 : exp16 h ≠ 0#5 := fun hz => by simp [hz] at h1
  have h31 : exp16 h ≠ 31#5 := fun hz => by simp [hz] at h30
  have he : (exp16 h).setWidth 8 + 112#8 = BitVec.ofNat 8 ((exp16 h).toNat + 112) := by
    apply BitVec.eq_of_toNat_eq
    rw [rebias_toNat, BitVec.toNat_ofNat]
    omega
  refine ⟨h2fUnit h, exec_h2f h s, ?_, ?_⟩
  · rw [h2fUnit_normal h0 h31, h2fNormal, he, leftJustify]
  · rw [h2fUnit_normal h0 h31, value32_h2fNormal h0 h31]

/-- Settles O9: R72's case of the unit keeps all ten mantissa bits, so class, quiet bit and sign stay. -/
theorem h2fSpecialResult : Obligations.H2fSpecialResult := by
  intro h s he
  refine ⟨h2fSpecial (sign16 h) (man16 h), ?_, rfl, ?_, ?_, quiet32_h2fSpecial he, signaling32_h2fSpecial he⟩
  · rw [← h2fUnit_special he]
    exact exec_h2f h s
  · intro hm
    rw [h2fSpecial, hm]
    cases sign16 h <;> rfl
  · intro hm
    rw [class32_h2fSpecial he, class16_of_exp_ones he, if_neg hm]

/-- Settles O10: R73's case of the unit. -/
theorem h2fZeroResult : Obligations.H2fZeroResult := by
  intro h s he hm
  have hf : h2fUnit h = if sign16 h then 0x80000000#32 else 0x00000000#32 := by
    rw [h2fUnit_zero he hm, h2fZero]
    cases sign16 h <;> rfl
  rw [← hf]
  exact exec_h2f h s

/-- Settles O11: the `k` of R74 is `clz10 M`. -/
theorem h2fSubnormalResult : Obligations.H2fSubnormalResult := by
  intro h s he hm
  obtain ⟨hk, hlo, hhi⟩ := clz10_spec (man16 h) hm
  obtain ⟨e0, e255⟩ := norm16Unit_e8_ne hm
  have hf := h2fUnit_subnormal he hm
  refine ⟨clz10 (man16 h), h2fUnit h, exec_h2f h s, hk, hlo, hhi, ?_, ?_, ?_⟩
  · rw [hf, h2fSubnormal, norm16Unit_e8_eq hm, norm16Unit_mn_eq, leftJustify]
  · rw [hf, h2fSubnormal, class32_pack32_normal _ _ e0 e255]
  · rw [hf, value32_h2fSubnormal he hm]

/-- Settles O12: the value is kept in each of the four cases of R70. -/
theorem h2fIsExact : Obligations.H2fIsExact :=
  fun h s hn => ⟨h2fUnit h, exec_h2f h s, value32_h2fUnit hn⟩

end Sys2Proof.Machine

/-! ## Unit F2H: its cases, the cut of its general path, and the statements O15 to O18, O20, O22
(41_f2h.md R81 to R89) -/

namespace Sys2Proof.Machine

/-! ### What F2H answers, one equation per case of R81 -/

/-- Each F2H operation puts the unit's response into its own answer slot and touches nothing else, written as a record
update. -/
theorem exec_f2hOf_of_unit {m : Mode} {f : Single} {s : State} {r : F2hResponse} (h : f2hUnit s.build m f = r) :
    exec (Instr.f2hOf m f) s = .next { s with f2h := { s.f2h with answer := some r } } := by
  rw [exec_f2hOf, h]
  rfl

theorem exp32_ne_ones {f : Single} (h : (exp32 f).toNat ≤ 254) : exp32 f ≠ 255#8 :=
  BitVec.toNat_ne.mpr (Nat.ne_of_lt (Nat.lt_succ_of_le h))

theorem f2hUnit_nan (b : Build) (m : Mode) {f : Single} (he : exp32 f = 255#8) (hm : man32 f ≠ 0#23) :
    f2hUnit b m f = f2hNan (sign32 f) (man32 f) := by
  simp [f2hUnit, he, hm]

theorem f2hUnit_inf (b : Build) (m : Mode) {f : Single} (he : exp32 f = 255#8) (hm : man32 f = 0#23) :
    f2hUnit b m f = f2hInf (sign32 f) := by
  simp [f2hUnit, he, hm]

theorem f2hUnit_overflow (b : Build) (m : Mode) {f : Single} (h143 : 143 ≤ (exp32 f).toNat)
    (h254 : (exp32 f).toNat ≤ 254) : f2hUnit b m f = f2hOverflow m (sign32 f) := by
  simp [f2hUnit, exp32_ne_ones h254, h143]

theorem f2hUnit_general (b : Build) (m : Mode) {f : Single} (h142 : (exp32 f).toNat ≤ 142) :
    f2hUnit b m f = f2hRounded b m (sign32 f) (denorm32Unit (exp32 f) (man32 f)) := by
  have he : exp32 f ≠ 255#8 := exp32_ne_ones (by omega)
  have h143 : ¬ 143 ≤ (exp32 f).toNat := by omega
  simp [f2hUnit, he, h143]

/-! ### NaN sources (R83) -/

theorem class32_of_exp_ones {f : Single} (he : exp32 f = 255#8) :
    class32 f = if man32 f = 0#23 then .infinite else .nan := by
  by_cases hm : man32 f = 0#23 <;> simp [class32, he, hm]

/-- The forced bit keeps a NaN a NaN. -/
theorem nanPayload_ne_zero (m23 : BitVec 23) : nanPayload m23 ≠ 0#10 := by
  unfold nanPayload
  split
  · decide
  · assumption

/-- The quiet bit goes from bit 22 to bit 9, and the forced bit is another one: F2H never quiets. -/
theorem nanPayload_quietBit (m23 : BitVec 23) : (nanPayload m23).getLsbD 9 = m23.getLsbD 22 := by
  have hbit : (m23.extractLsb' 13 10).getLsbD 9 = m23.getLsbD 22 := by
    rw [BitVec.getLsbD_extractLsb']
    rfl
  unfold nanPayload
  split
  · next h0 =>
    rw [← hbit, h0]
    rfl
  · exact hbit

theorem class16_f2hNan (s : Bool) (m23 : BitVec 23) : class16 (f2hNan s m23).h = .nan := by
  have he : exp16 (f2hNan s m23).h = 31#5 := exp16_pack16 s 31#5 (nanPayload m23)
  have hm : man16 (f2hNan s m23).h = nanPayload m23 := man16_pack16 s 31#5 (nanPayload m23)
  rw [class16_of_exp_ones he, hm, if_neg (nanPayload_ne_zero m23)]

theorem quietBit_f2hNan (s : Bool) (m23 : BitVec 23) : (man16 (f2hNan s m23).h).getLsbD 9 = m23.getLsbD 22 := by
  rw [f2hNan, man16_pack16, nanPayload_quietBit]

/-! ### The cut of the significand on the general path (R86) -/

/-- The guard bit is the significand's last bit below the kept ones. -/
theorem denorm32Unit_guard (e8 : BitVec 8) (m23 : BitVec 23) :
    (denorm32Unit e8 m23).g = decide (significand e8 m23 / 2 ^ (alignShift e8 - 1) % 2 = 1) := rfl

/-- The sticky bit says that the rest is not zero. -/
theorem denorm32Unit_sticky (e8 : BitVec 8) (m23 : BitVec 23) :
    (denorm32Unit e8 m23).t = decide (significand e8 m23 % 2 ^ (alignShift e8 - 1) ≠ 0) := by
  rw [decide_not]
  rfl

/-- The significand is the kept bits, the guard bit and a rest below the guard bit. -/
theorem denorm32Unit_cut (e8 : BitVec 8) (m23 : BitVec 23) :
    significand e8 m23 = (denorm32Unit e8 m23).kept.toNat * 2 ^ alignShift e8 +
      (if (denorm32Unit e8 m23).g then 2 ^ (alignShift e8 - 1) else 0) +
      significand e8 m23 % 2 ^ (alignShift e8 - 1) := by
  have hcut := cut_eq (significand e8 m23) (alignShift e8) (le_trans (by decide) (alignShift_bounds e8).1)
  have hg : (if (denorm32Unit e8 m23).g then 2 ^ (alignShift e8 - 1) else 0) =
      significand e8 m23 / 2 ^ (alignShift e8 - 1) % 2 * 2 ^ (alignShift e8 - 1) := by
    rcases Nat.mod_two_eq_zero_or_one (significand e8 m23 / 2 ^ (alignShift e8 - 1)) with h | h <;>
      simp [denorm32Unit_guard, h]
  rw [denorm32Unit_kept, hg]
  exact hcut

/-- The largest base exponent, 29, with all kept bits set and an increment, gives the infinity (R86, R90). -/
theorem roundedMag_sum_le {d : Denorm32Response} (h : d.ebase.toNat ≤ 29) (inc : Bool) :
    1024 * d.ebase.toNat + d.kept.toNat + inc.toNat ≤ 0x7C00 := by
  have hk := d.kept.isLt
  have hi := Bool.toNat_le inc
  omega

theorem denorm32Unit_ebase_le {e8 : BitVec 8} (h : e8.toNat ≤ 142) (m23 : BitVec 23) :
    (denorm32Unit e8 m23).ebase.toNat ≤ 29 := by
  rw [denorm32Unit_ebase h]
  omega

theorem roundedMag_eq_ofNat {d : Denorm32Response} (h : d.ebase.toNat ≤ 29) (inc : Bool) :
    roundedMag d inc = BitVec.ofNat 15 (1024 * d.ebase.toNat + d.kept.toNat + inc.toNat) := by
  have hle := roundedMag_sum_le h inc
  apply BitVec.eq_of_toNat_eq
  rw [roundedMag_toNat d inc h, BitVec.toNat_ofNat]
  omega

theorem overflowFlag_roundedMag {d : Denorm32Response} (h : d.ebase.toNat ≤ 29) (inc : Bool) :
    overflowFlag (roundedMag d inc) = decide (1024 * d.ebase.toNat + d.kept.toNat + inc.toNat = 0x7C00) := by
  rw [← roundedMag_toNat d inc h, overflowFlag]
  exact decide_eq_decide.mpr BitVec.toNat_inj.symm

/-! ### Tiny sources (R87): nothing is kept, so the magnitude is the increment -/

theorem alignShift_subnormal {e8 : BitVec 8} (h : e8.toNat < 113) : alignShift e8 = 126 - max e8.toNat 1 :=
  if_neg (Nat.not_le.mpr h)

theorem significand_eq_zero {e8 : BitVec 8} {m23 : BitVec 23} :
    significand e8 m23 = 0 ↔ e8 = 0#8 ∧ m23 = 0#23 := by
  have hm : m23.toNat = 0 ↔ m23 = 0#23 := BitVec.toNat_inj (y := 0#23)
  by_cases he : e8 = 0#8
  · simp [he, significand_zero, hm]
  · simp [he, significand_normal]

/-- A shift of at least 24 keeps no bit of the significand. -/
theorem denorm32Unit_tiny {e8 : BitVec 8} (h : e8.toNat ≤ 102) (m23 : BitVec 23) :
    (denorm32Unit e8 m23).ebase = 0#5 ∧ (denorm32Unit e8 m23).kept = 0#11 := by
  have hsh : 24 ≤ alignShift e8 := by
    rw [alignShift_subnormal (by omega)]
    omega
  have hkept : significand e8 m23 / 2 ^ alignShift e8 = 0 :=
    Nat.div_eq_of_lt (lt_of_lt_of_le (significand_lt e8 m23) (Nat.pow_le_pow_right (by decide) hsh))
  constructor <;> apply BitVec.eq_of_toNat_eq
  · rw [denorm32Unit_ebase (by omega), BitVec.toNat_zero]
    omega
  · rw [denorm32Unit_kept, hkept, BitVec.toNat_zero]

/-- `2^-25 <= |x| < 2^-24`: the leading one is the guard bit, the mantissa the rest. -/
theorem denorm32Unit_guard_tiny {e8 : BitVec 8} (h : e8.toNat = 102) (m23 : BitVec 23) :
    (denorm32Unit e8 m23).g = true ∧ (denorm32Unit e8 m23).t = decide (m23 ≠ 0#23) := by
  have hsh : alignShift e8 - 1 = 23 := by
    rw [alignShift_subnormal (by omega), h]
    rfl
  have he : e8 ≠ 0#8 := by rintro rfl; contradiction
  have hm := m23.isLt
  have hcut : (2 ^ 23 + m23.toNat) / 2 ^ 23 % 2 = 1 ∧ (2 ^ 23 + m23.toNat) % 2 ^ 23 = m23.toNat := by omega
  constructor
  · rw [denorm32Unit_guard, hsh, significand_normal he]
    exact decide_eq_true hcut.1
  · rw [denorm32Unit_sticky, hsh, significand_normal he, hcut.2]
    exact decide_eq_decide.mpr (BitVec.toNat_ne (y := 0#23)).symm

/-- `|x| < 2^-25`: the whole significand is the rest. -/
theorem denorm32Unit_sticky_tiny {e8 : BitVec 8} (h : e8.toNat ≤ 101) (m23 : BitVec 23) :
    (denorm32Unit e8 m23).g = false ∧ (denorm32Unit e8 m23).t = decide (¬ (e8 = 0#8 ∧ m23 = 0#23)) := by
  have hsh : 24 ≤ alignShift e8 - 1 := by
    rw [alignShift_subnormal (by omega)]
    omega
  have hlt : significand e8 m23 < 2 ^ (alignShift e8 - 1) :=
    lt_of_lt_of_le (significand_lt e8 m23) (Nat.pow_le_pow_right (by decide) hsh)
  constructor
  · simp [denorm32Unit_guard, Nat.div_eq_of_lt hlt]
  · rw [denorm32Unit_sticky, Nat.mod_eq_of_lt hlt]
    exact decide_eq_decide.mpr (not_congr significand_eq_zero)

/-- With nothing kept the response is the increment behind the sign; one unit is far from infinity. -/
theorem f2hRounded_nothingKept (b : Build) (m : Mode) (s : Bool) {d : Denorm32Response} (he : d.ebase = 0#5)
    (hk : d.kept = 0#11) : f2hRounded b m s d =
      { h := packMag16 s (if rndUnit b m s false d.g d.t then 1#15 else 0#15), ovf := false, inx := d.g || d.t } := by
  have hmag : ∀ inc, roundedMag d inc = if inc then 1#15 else 0#15 := by
    intro inc
    rw [roundedMag, he, hk]
    cases inc <;> rfl
  have hovf : ∀ inc : Bool, overflowFlag (if inc then 1#15 else 0#15) = false := by decide
  have hl : d.kept.getLsbD 0 = false := by rw [hk]; rfl
  simp only [f2hRounded, hmag, hovf, hl, inexactFlag]

/-- An exact value is never incremented (42_rounding_unit.md R116). -/
theorem rndUnit_exact (b : Build) (m : Mode) (s l : Bool) : rndUnit b m s l false false = false := by
  cases m <;> simp [rndUnit, incNearest]

/-- With the guard bit set and an even last bit only an exact tie under `EVEN` stays down. -/
theorem incNearest_guard_even (ties : Ties) (t : Bool) :
    incNearest ties false true t = decide (t = true ∨ ties = .away) := by
  cases ties <;> cases t <;> rfl

/-! ### The sign of the result (R89) -/

/-- Whatever case of R81 applies, the result is packed with the sign of the source. -/
theorem sign16_f2hUnit (b : Build) (m : Mode) (f : Single) : sign16 (f2hUnit b m f).h = sign32 f := by
  by_cases he : exp32 f = 255#8
  · by_cases hm : man32 f = 0#23
    · rw [f2hUnit_inf b m he hm]
      exact sign16_pack16 _ _ _
    · rw [f2hUnit_nan b m he hm]
      exact sign16_pack16 _ _ _
  · have hlt := (exp32 f).isLt
    have hne : (exp32 f).toNat ≠ 255 := BitVec.toNat_ne.mp he
    by_cases h143 : 143 ≤ (exp32 f).toNat
    · rw [f2hUnit_overflow b m h143 (by omega)]
      exact sign16_packMag16 _ _
    · rw [f2hUnit_general b m (by omega)]
      exact sign16_packMag16 _ _

/-! ### The statements -/

/-- Settles O15: R83's case of the unit, whose payload is not zero and keeps the quiet bit. -/
theorem f2hNanResult : Obligations.F2hNanResult := by
  intro m f s he hm
  have hc : class16 (f2hNan (sign32 f) (man32 f)).h = class32 f := by
    rw [class16_f2hNan, class32_of_exp_ones he, if_neg hm]
  refine ⟨(f2hNan (sign32 f) (man32 f)).h, exec_f2hOf_of_unit (f2hUnit_nan _ m he hm), rfl,
    class16_f2hNan _ _, ?_, ?_⟩
  · rw [quiet16, quiet32, hc, quietBit_f2hNan]
  · rw [signaling16, signaling32, hc, quietBit_f2hNan]

/-- Settles O16: R84's case of the unit does not look at the mode. -/
theorem f2hInfinityResult : Obligations.F2hInfinityResult := by
  intro m f s he hm
  apply exec_f2hOf_of_unit
  rw [f2hUnit_inf _ m he hm]
  cases sign32 f <;> rfl

/-- Settles O17: R85's case of the unit, cell by cell of the table of modes and signs. -/
theorem f2hOverflowResult : Obligations.F2hOverflowResult := by
  intro m f s h143 h254
  apply exec_f2hOf_of_unit
  rw [f2hUnit_overflow _ m h143 h254]
  cases m <;> cases sign32 f <;> rfl

/-- Settles O18: R86's case of the unit, whose 15-bit sum does not wrap. -/
theorem f2hGeneralResult : Obligations.F2hGeneralResult := by
  intro m f s h142
  have hbase := denorm32Unit_ebase_le h142 (man32 f)
  have hcut := denorm32Unit_cut (exp32 f) (man32 f)
  have ht := denorm32Unit_sticky (exp32 f) (man32 f)
  generalize hd : denorm32Unit (exp32 f) (man32 f) = d at *
  generalize hinc : rndUnit s.build m (sign32 f) (decide (d.kept.toNat % 2 = 1)) d.g d.t = inc
  have hone : (if inc then 1 else 0) = inc.toNat := by cases inc <;> rfl
  refine ⟨alignShift (exp32 f), d.ebase.toNat, d.kept.toNat, _, d.g, d.t, inc, rfl, ?_, hcut,
    Nat.mod_lt _ (Nat.two_pow_pos _), ht, hinc.symm, ?_, exec_f2hOf_of_unit ?_⟩
  · rw [← hd, denorm32Unit_ebase h142]
  · rw [hone]
    exact roundedMag_sum_le hbase inc
  · rw [f2hUnit_general _ m h142, hd, f2hRounded, ← BitVec.testBit_toNat, Nat.testBit_zero, hinc,
      overflowFlag_roundedMag hbase, roundedMag_eq_ofNat hbase, hone, inexactFlag]

/-- Settles O20: nothing of a tiny source is kept, so the increment alone decides; it sees no guard bit and no
sticky bit for a zero, the sticky bit alone below `2^-25`, and the guard bit from there on. -/
theorem f2hTinySourceTable : Obligations.F2hTinySourceTable := by
  intro m f s h102
  obtain ⟨hebase, hkept⟩ := denorm32Unit_tiny h102 (man32 f)
  apply exec_f2hOf_of_unit
  rw [f2hUnit_general _ m (by omega), f2hRounded_nothingKept _ _ _ hebase hkept]
  by_cases h : (exp32 f).toNat = 102
  · obtain ⟨hg, ht⟩ := denorm32Unit_guard_tiny h (man32 f)
    have he : exp32 f ≠ 0#8 := fun hz => by simp [hz] at h
    rw [hg, ht]
    cases m with
    | rtz => simp [rndUnit, he]
    | rn => simp [rndUnit, incNearest_guard_even, he, h]
    | ru => cases sign32 f <;> simp [rndUnit, he]
    | rd => simp [rndUnit, he]
    | ind => simp [rndUnit, incNearest_guard_even, he, h]
  · obtain ⟨hg, ht⟩ := denorm32Unit_sticky_tiny (by omega : (exp32 f).toNat ≤ 101) (man32 f)
    rw [hg, ht]
    by_cases hz : exp32 f = 0#8 ∧ man32 f = 0#23
    · simp [hz, rndUnit_exact]
    · cases m with
      | rtz => simp [rndUnit, hz]
      | rn => simp [rndUnit, incNearest, hz, h]
      | ru => cases sign32 f <;> simp [rndUnit, hz]
      | rd => simp [rndUnit, hz]
      | ind => simp [rndUnit, incNearest, hz, h]

/-- Settles O22: `sign16_f2hUnit`. -/
theorem f2hKeepsTheSign : Obligations.F2hKeepsTheSign :=
  fun m f s => ⟨f2hUnit s.build m f, exec_f2hOf_of_unit rfl, sign16_f2hUnit s.build m f⟩

end Sys2Proof.Machine

/-! ## Unit RND: the tie rule, and the statement O34 (42_rounding_unit.md R111 to R115) -/

namespace Sys2Proof.Machine

/-- Under `EVEN` the guard bit decides together with the sticky bit or the last bit, under `AWAY` the guard bit alone
(42_rounding_unit.md R112, R115). -/
theorem incNearest_eq_match (ties : Ties) (l g t : Bool) :
    incNearest ties l g t = match ties with | .even => g && (t || l) | .away => g := by
  cases ties with
  | even => rfl
  | away => simp [incNearest, tieUp]

/-- Each RND operation puts the unit's bit on the RND interface and touches nothing else, written as a record update. -/
theorem exec_rndOf_of_unit {m : Mode} {sgn l g t inc : Bool} {s : State} (h : rndUnit s.build m sgn l g t = inc) :
    exec (Instr.rndOf m sgn l g t) s = .next { s with rndInc := some inc } := by
  rw [exec_rndOf, h]
  rfl

/-- Settles O34: RTZ, RU and RD answer the unit's own formula; RN and IND go by their tie rule. -/
theorem rndResults : Obligations.RndResults := by
  intro sgn l g t s
  refine ⟨?rtz, ?rn, ?ru, ?rd, ?ind⟩
  case rtz => exact exec_rndOf_of_unit (m := .rtz) rfl
  case rn => exact exec_rndOf_of_unit (m := .rn) (incNearest_eq_match s.build.nearestTies l g t)
  case ru => exact exec_rndOf_of_unit (m := .ru) rfl
  case rd => exact exec_rndOf_of_unit (m := .rd) rfl
  case ind => exact exec_rndOf_of_unit (m := .ind) (incNearest_eq_match s.build.indTies l g t)

end Sys2Proof.Machine

/-! ## Unit SUB: its two operations, and the statements O36 and O38 (43_subnormal_handler.md R121, R122) -/

namespace Sys2Proof.Machine

/-- SUB.NORM16 of a non-zero mantissa puts the unit's response on its interface and touches nothing else, written as a
record update. -/
theorem exec_subNorm16_of_ne_zero {m : BitVec 10} (hm : m ≠ 0#10) (s : State) :
    exec (.subNorm16 m) s = .next { s with norm16 := some (norm16Unit m) } :=
  if_neg hm

/-- SUB.DENORM32 of a source below `2^16` puts the unit's response on its interface and touches nothing else, written
as a record update. -/
theorem exec_subDenorm32_of_le {e8 : BitVec 8} (h142 : e8.toNat ≤ 142) (m23 : BitVec 23) (s : State) :
    exec (.subDenorm32 e8 m23) s = .next { s with denorm32 := some (denorm32Unit e8 m23) } :=
  if_neg (Nat.not_le.mpr (Nat.lt_succ_of_le h142))

/-- `m = (1 + mn/1024) * 2^(9 - k)`, multiplied by 1024 (43_subnormal_handler.md R121). -/
theorem norm16Unit_value {m : BitVec 10} (hm : m ≠ 0#10) :
    (1024 + (norm16Unit m).mn.toNat) * 2 ^ (9 - clz10 m) = m.toNat * 1024 := by
  have hk := (clz10_spec m hm).1
  rw [norm16Unit_mn_toNat hm, Nat.mul_assoc, ← Nat.pow_add, show clz10 m + 1 + (9 - clz10 m) = 10 by omega]

/-- Settles O36: the `k` of R121 is `clz10 m`. -/
theorem norm16Result : Obligations.Norm16Result := by
  intro m s hm
  obtain ⟨hk, hlo, hhi⟩ := clz10_spec m hm
  exact ⟨clz10 m, norm16Unit m, exec_subNorm16_of_ne_zero hm s, hk, hlo, hhi, norm16Unit_e8 m hm, norm16Unit_mn_eq m,
    norm16Unit_value hm⟩

/-- Settles O38: the rest of the cut is the significand modulo `2^(sh - 1)`. -/
theorem denorm32Result : Obligations.Denorm32Result := by
  intro e8 m23 s h142
  have hsticky : (denorm32Unit e8 m23).t = true ↔ significand e8 m23 % 2 ^ (alignShift e8 - 1) ≠ 0 := by
    rw [denorm32Unit_sticky, decide_eq_true_iff]
  exact ⟨alignShift e8, significand e8 m23 % 2 ^ (alignShift e8 - 1), denorm32Unit e8 m23,
    exec_subDenorm32_of_le h142 m23 s, rfl, denorm32Unit_ebase h142 m23, denorm32Unit_cut e8 m23,
    Nat.mod_lt _ (Nat.two_pow_pos _), hsticky⟩

end Sys2Proof.Machine

/-! ## Requests: decoding and encoding, and the statements O1 to O4 and O54 (30_encoding.md R50 to R58) -/

namespace Sys2Proof.Machine

/-! ### Encoding, one equation per channel -/

theorem encode_f2hOf (m : Mode) (f : Single) : encode (Instr.f2hOf m f) = .f2h (f2hWord m f) := by
  cases m <;> rfl

theorem encode_rndOf (m : Mode) (sgn l g t : Bool) :
    encode (Instr.rndOf m sgn l g t) = .rnd (rndWord m sgn l g t) := by
  cases m <;> rfl

/-- The four operand bits of an RND word follow its mode code (30_encoding.md R54). -/
theorem rndWord_of_nibble (m : Mode) (x : BitVec 4) :
    rndWord m (x.getLsbD 3) (x.getLsbD 2) (x.getLsbD 1) (x.getLsbD 0) = m.code ++ x := by
  cases m <;> revert x <;> decide

/-- Every choice of the four operand bits of RND is a nibble. -/
theorem nibble_of_bits (sgn l g t : Bool) : ∃ x : BitVec 4,
    x.getLsbD 3 = sgn ∧ x.getLsbD 2 = l ∧ x.getLsbD 1 = g ∧ x.getLsbD 0 = t := by
  revert sgn l g t
  decide

/-! ### Decoding a word with a mode field, by what its code names -/

theorem f2hWord_split (w : BitVec 35) : ∃ (rm : BitVec 3) (f : BitVec 32), w = rm ++ f :=
  ⟨_, _, (BitVec.extractLsb'_append_extractLsb' (w := 3) (len := 32)).symm⟩

theorem rndWord_split (w : BitVec 7) : ∃ (rm : BitVec 3) (x : BitVec 4), w = rm ++ x :=
  ⟨_, _, (BitVec.extractLsb'_append_extractLsb' (w := 3) (len := 4)).symm⟩

/-- A code names a mode only if it is that mode's code (30_encoding.md R52). -/
theorem code_of_ofCode {rm : BitVec 3} {m : Mode} (h : Mode.ofCode rm = some m) : rm = m.code := by
  have hall : ∀ rm : BitVec 3, (Mode.ofCode rm).all (fun m => rm == m.code) = true := by decide
  have := hall rm
  rw [h] at this
  exact eq_of_beq this

theorem decode_f2h_legal {rm : BitVec 3} {m : Mode} (h : Mode.ofCode rm = some m) (f : BitVec 32) :
    decode (.f2h (rm ++ f)) = .ok (Instr.f2hOf m f) := by
  simp only [decode, decodeF2h, extract_append_high, extract_append_low, h]

theorem decode_f2h_reserved {rm : BitVec 3} (h : Mode.ofCode rm = none) (f : BitVec 32) :
    decode (.f2h (rm ++ f)) = .error (.reservedMode rm) := by
  simp only [decode, decodeF2h, extract_append_high, h]

/-- The low four bits of an RND word are its nibble. -/
theorem getLsbD_append_nibble (rm : BitVec 3) (x : BitVec 4) {i : Nat} (hi : i < 4) :
    (rm ++ x : BitVec (3 + 4)).getLsbD i = x.getLsbD i := by
  rw [BitVec.getLsbD_append, if_pos hi]

theorem decode_rnd_legal {rm : BitVec 3} {m : Mode} (h : Mode.ofCode rm = some m) (x : BitVec 4) :
    decode (.rnd (rm ++ x)) =
      .ok (Instr.rndOf m (x.getLsbD 3) (x.getLsbD 2) (x.getLsbD 1) (x.getLsbD 0)) := by
  have hbit : ∀ i, i < 4 → (rm ++ x : BitVec 7).getLsbD i = x.getLsbD i :=
    fun _ hi => getLsbD_append_nibble rm x hi
  simp only [decode, decodeRnd, extract_append_high, h, hbit 3 (by decide), hbit 2 (by decide),
    hbit 1 (by decide), hbit 0 (by decide)]

theorem decode_rnd_reserved {rm : BitVec 3} (h : Mode.ofCode rm = none) (x : BitVec 4) :
    decode (.rnd (rm ++ x)) = .error (.reservedMode rm) := by
  simp only [decode, decodeRnd, extract_append_high, h]

theorem decode_f2h_eq_error {rm : BitVec 3} {f : BitVec 32} {e : DecodeError}
    (h : decode (.f2h (rm ++ f)) = .error e) : e = .reservedMode rm ∧ Mode.ofCode rm = none := by
  cases hm : Mode.ofCode rm with
  | some m => simp [decode_f2h_legal hm] at h
  | none => simpa [decode_f2h_reserved hm, eq_comm] using h

theorem decode_rnd_eq_error {rm : BitVec 3} {x : BitVec 4} {e : DecodeError}
    (h : decode (.rnd (rm ++ x)) = .error e) : e = .reservedMode rm ∧ Mode.ofCode rm = none := by
  cases hm : Mode.ofCode rm with
  | some m => simp [decode_rnd_legal hm] at h
  | none => simpa [decode_rnd_reserved hm, eq_comm] using h

/-- A rejected word stands on F2H or RND and its code, the reason, names no mode (30_encoding.md R58). -/
theorem decode_error_cases {q : Request} {e : DecodeError} (h : decode q = .error e) : ∃ rm : BitVec 3,
    e = .reservedMode rm ∧ Mode.ofCode rm = none ∧
      ((∃ f : BitVec 32, q = .f2h (rm ++ f)) ∨ (∃ x : BitVec 4, q = .rnd (rm ++ x))) := by
  cases q with
  | f2h w =>
    obtain ⟨rm, f, rfl⟩ := f2hWord_split w
    obtain ⟨he, hn⟩ := decode_f2h_eq_error h
    exact ⟨rm, he, hn, .inl ⟨f, rfl⟩⟩
  | rnd w =>
    obtain ⟨rm, x, rfl⟩ := rndWord_split w
    obtain ⟨he, hn⟩ := decode_rnd_eq_error h
    exact ⟨rm, he, hn, .inr ⟨x, rfl⟩⟩
  | h2f w => cases h
  | norm16 w => cases h
  | denorm32 w => cases h

/-! ### Decoding what the encoder writes, and back -/

theorem decode_f2hWord (m : Mode) (f : Single) : decode (.f2h (f2hWord m f)) = .ok (Instr.f2hOf m f) :=
  decode_f2h_legal (code_ofCode m) f

theorem decode_rndWord (m : Mode) (sgn l g t : Bool) :
    decode (.rnd (rndWord m sgn l g t)) = .ok (Instr.rndOf m sgn l g t) := by
  obtain ⟨x, rfl, rfl, rfl, rfl⟩ := nibble_of_bits sgn l g t
  rw [rndWord_of_nibble]
  exact decode_rnd_legal (code_ofCode m) x

theorem decode_denorm32 (e8 : BitVec 8) (m23 : BitVec 23) :
    decode (.denorm32 (e8 ++ m23)) = .ok (.subDenorm32 e8 m23) := by
  simp only [decode, extract_append_high, extract_append_low]

theorem encode_of_decode_f2h {w : BitVec 35} {i : Instr} (h : decode (.f2h w) = .ok i) : encode i = .f2h w := by
  obtain ⟨rm, f, rfl⟩ := f2hWord_split w
  cases hm : Mode.ofCode rm with
  | none => simp [decode_f2h_reserved hm] at h
  | some m =>
    rw [decode_f2h_legal hm] at h
    cases h
    rw [encode_f2hOf, f2hWord, code_of_ofCode hm]

theorem encode_of_decode_rnd {w : BitVec 7} {i : Instr} (h : decode (.rnd w) = .ok i) : encode i = .rnd w := by
  obtain ⟨rm, x, rfl⟩ := rndWord_split w
  cases hm : Mode.ofCode rm with
  | none => simp [decode_rnd_reserved hm] at h
  | some m =>
    rw [decode_rnd_legal hm] at h
    cases h
    rw [encode_rndOf, rndWord_of_nibble, code_of_ofCode hm]

/-! ### The statements -/

/-- Settles O1: each interface's word holds its operands field by field, and a mode's code names that mode. -/
theorem decodeOfEncodeIsTheOperation : Obligations.DecodeOfEncodeIsTheOperation := by
  intro i
  cases i with
  | h2f h => rfl
  | f2hRtz f => exact decode_f2hWord .rtz f
  | f2hRn f => exact decode_f2hWord .rn f
  | f2hRu f => exact decode_f2hWord .ru f
  | f2hRd f => exact decode_f2hWord .rd f
  | f2hInd f => exact decode_f2hWord .ind f
  | rndRtz sgn l g t => exact decode_rndWord .rtz sgn l g t
  | rndRn sgn l g t => exact decode_rndWord .rn sgn l g t
  | rndRu sgn l g t => exact decode_rndWord .ru sgn l g t
  | rndRd sgn l g t => exact decode_rndWord .rd sgn l g t
  | rndInd sgn l g t => exact decode_rndWord .ind sgn l g t
  | subNorm16 m => rfl
  | subDenorm32 e8 m23 => exact decode_denorm32 e8 m23

/-- Settles O2: the fields the decoder reads cover the word, and a mode has one code. -/
theorem encodeOfDecodeIsTheWord : Obligations.EncodeOfDecodeIsTheWord := by
  intro q i h
  cases q with
  | h2f w => cases h; rfl
  | f2h w => exact encode_of_decode_f2h h
  | rnd w => exact encode_of_decode_rnd h
  | norm16 w => cases h; rfl
  | denorm32 w =>
    cases h
    exact congrArg Request.denorm32 (BitVec.extractLsb'_append_extractLsb' (w := 8) (len := 23))

/-- Settles O3: the codes that name no mode are 4, 5 and 6, and no other interface has a mode field. -/
theorem onlyReservedModesAreRejected : Obligations.OnlyReservedModesAreRejected := by
  refine ⟨fun rm f => ?_, fun rm x => ?_, fun q e h => ?_⟩
  · rw [← ofCode_eq_none]
    exact ⟨fun h => (decode_f2h_eq_error h).2, fun h => decode_f2h_reserved h f⟩
  · rw [← ofCode_eq_none]
    exact ⟨fun h => (decode_rnd_eq_error h).2, fun h => decode_rnd_reserved h x⟩
  · obtain ⟨rm, -, -, ⟨f, hq⟩ | ⟨x, hq⟩⟩ := decode_error_cases h
    · exact .inl ⟨_, hq⟩
    · exact .inr ⟨_, hq⟩

/-- Settles O4: the nine words are evaluated. -/
theorem specRequestWordsDecode : Obligations.SpecRequestWordsDecode := by
  unfold Obligations.SpecRequestWordsDecode
  decide

theorem serveOne_of_error {q : Request} {e : DecodeError} (h : decode q = .error e) (s : State) :
    serveOne q s = .refused (refusalOf e) := by
  simp only [serveOne, h]

/-- Settles O54: a transaction is refused exactly when its word does not decode, since every operation completes. -/
theorem reservedModeIsRefused : Obligations.ReservedModeIsRefused := by
  refine ⟨fun s rm f h4 h6 => ?_, fun s rm x h4 h6 => ?_, fun s q r h => ?_⟩
  · exact serveOne_of_error (decode_f2h_reserved ((ofCode_eq_none rm).mpr ⟨h4, h6⟩) f) s
  · exact serveOne_of_error (decode_rnd_reserved ((ofCode_eq_none rm).mpr ⟨h4, h6⟩) x) s
  · obtain ⟨i, t, -, -, ht, -⟩ | ⟨e, he, hr⟩ := serveOne_cases q s
    · rw [ht] at h
      cases h
    · obtain ⟨rm, rfl, hn, hq⟩ := decode_error_cases he
      obtain ⟨h4, h6⟩ := (ofCode_eq_none rm).mp hn
      rw [hr] at h
      cases h
      exact ⟨rm, rfl, h4, h6, hq⟩

end Sys2Proof.Machine

/-! ## The block, cycle by cycle: the statements O41 to O46, O49 to O53, O55 to O57 (10_state.md,
70_reset_and_hazards.md) -/

namespace Sys2Proof.Machine

/-! ### One channel through a cycle -/

theorem cycle_run {α : Type} (a : Option α) (c : Channel α) :
    c.cycle false a = { answer := a, stages := (a :: c.stages).dropLast, out := c.stages.getLastD a } := rfl

theorem cycle_reset {α : Type} (a : Option α) (c : Channel α) :
    c.cycle true a = { answer := none, stages := List.replicate c.stages.length none, out := none } := by
  simp [Channel.cycle, Channel.reset, List.map_const']

theorem cycle_answer {α : Type} (rst : Bool) (a : Option α) (c : Channel α) :
    (c.cycle rst a).answer = if rst then none else a := by
  cases rst <;> rfl

theorem cycle_stages_length {α : Type} (rst : Bool) (a : Option α) (c : Channel α) :
    (c.cycle rst a).stages.length = c.stages.length := by
  cases rst with
  | false => exact clock_stages_length { c with answer := a }
  | true => exact reset_stages_length c

/-- With no stage the answer of the cycle drives the output ports (10_state.md R21). -/
theorem cycle_out_of_no_stage {α : Type} (a : Option α) {c : Channel α} (h : c.stages = []) :
    (c.cycle false a).out = a := by
  rw [cycle_run, h]
  rfl

/-- Stage 1 takes the answer; in a reset both are empty. -/
theorem cycle_first_stage {α : Type} (rst : Bool) (a : Option α) {c : Channel α} (h : c.stages ≠ []) :
    (c.cycle rst a).stages[0]? = some (c.cycle rst a).answer := by
  obtain ⟨b, l, hc⟩ := List.exists_cons_of_ne_nil h
  cases rst with
  | false => simp [cycle_run, hc]
  | true => simp [cycle_reset, hc]

/-- The valid bits of a channel after a cycle depend on its valid bits and on whether it answers (10_state.md R23). -/
theorem cycle_validBits_congr {α : Type} (rst : Bool) {a a' : Option α} {c c' : Channel α}
    (hc : c.validBits = c'.validBits) (ha : a.isSome = a'.isSome) :
    (c.cycle rst a).validBits = (c'.cycle rst a').validBits := by
  obtain ⟨-, hst, -⟩ : _ ∧ c.stages.map Option.isSome = c'.stages.map Option.isSome ∧ _ := by
    simpa only [Channel.validBits, Prod.mk.injEq] using hc
  have hlen : c.stages.length = c'.stages.length := by simpa using congrArg List.length hst
  have hlast : (c.stages.getLastD a).isSome = (c'.stages.getLastD a').isSome := by
    rw [← List.getLastD_map (f := Option.isSome), ← List.getLastD_map (f := Option.isSome), hst, ha]
  cases rst with
  | false => simp only [Channel.validBits, cycle_run, ha, hst, hlast, List.map_dropLast, List.map_cons]
  | true => simp [Channel.validBits, cycle_reset, hlen]

/-! ### What reaches the block in a cycle -/

theorem inReset_of_no_stage {s : State} (h : s.build.latency = 0) : s.inReset = false := by
  simp [State.inReset, Build.hasReset, h]

theorem inReset_of_rst {s : State} (hr : s.nextCycle.rst = true) (hl : 0 < s.build.latency) : s.inReset = true := by
  simp [State.inReset, Build.hasReset, hr, Nat.ne_of_gt hl]

theorem inReset_congr {s s' : State} (hb : s.build = s'.build) (hr : s.nextCycle.rst = s'.nextCycle.rst) :
    s.inReset = s'.inReset := by
  simp only [State.inReset, hb, hr]

theorem h2fDue_of_valid {c : Cycle} (h : c.h2fValidI = true) : h2fDue c = some (h2fUnit c.h2fDataI) := by
  simp [h2fDue, h]

theorem h2fDue_of_invalid {c : Cycle} (h : c.h2fValidI = false) : h2fDue c = none := by
  simp [h2fDue, h]

theorem f2hDue_of_invalid {c : Cycle} (h : c.f2hValidI = false) (b : Build) (n : Nat) : f2hDue b n c = none := by
  simp [f2hDue, h]

theorem f2hDue_of_valid {c : Cycle} (h : c.f2hValidI = true) (b : Build) (n : Nat) :
    f2hDue b n c = some (f2hReply b n c.f2hRmI c.f2hDataI) := by
  simp [f2hDue, h]

theorem f2hReply_code (b : Build) (n : Nat) (m : Mode) (f : Single) : f2hReply b n m.code f = f2hUnit b m f := by
  simp only [f2hReply, code_ofCode]

theorem f2hDue_of_code {c : Cycle} (h : c.f2hValidI = true) {m : Mode} (hm : c.f2hRmI = m.code) (b : Build) (n : Nat) :
    f2hDue b n c = some (f2hUnit b m c.f2hDataI) := by
  rw [f2hDue_of_valid h, hm, f2hReply_code]

theorem h2fDue_congr {c c' : Cycle} (hv : c.h2fValidI = c'.h2fValidI) (hd : c.h2fDataI = c'.h2fDataI) :
    h2fDue c = h2fDue c' := by
  simp only [h2fDue, hv, hd]

theorem f2hDue_congr {c c' : Cycle} (hv : c.f2hValidI = c'.f2hValidI) (hd : c.f2hDataI = c'.f2hDataI)
    (hm : c.f2hRmI = c'.f2hRmI) (b : Build) (n : Nat) : f2hDue b n c = f2hDue b n c' := by
  simp only [f2hDue, hv, hd, hm]

/-- With no request on the internal interfaces RND shows nothing. -/
theorem rndDue_of_no_request {c : Cycle} (h : c.internalRequests = []) (b : Build) (n : Nat) :
    rndDue none b n c = none := by
  rw [internalRequests_eq] at h
  cases hr : c.rndReq with
  | none => simp [rndDue, hr]
  | some w => simp [hr] at h

/-! ### The step -/

/-- A cycle with nothing on the internal interfaces: the whole next state. -/
theorem step_of_no_internal {s : State} (h : s.nextCycle.internalRequests = []) :
    step s = .next
      { build := s.build
        h2f := s.h2f.cycle s.inReset (h2fDue s.nextCycle)
        f2h := s.f2h.cycle s.inReset (f2hDue s.build s.freeCount s.nextCycle)
        rndInc := none
        norm16 := none
        denorm32 := none
        stimulus := s.stimulus.tail
        freeCount := s.freeCount + 1 } := by
  obtain ⟨a, d, n, hs, hn⟩ := step_form s
  obtain ⟨rfl, rfl, rfl⟩ := hn h
  rw [hs, rndDue_of_no_request h]

/-- What any step leaves behind, apart from the SUB interfaces and the counter. -/
structure StepResult (s t : State) : Prop where
  build : t.build = s.build
  h2f : t.h2f = s.h2f.cycle s.inReset (h2fDue s.nextCycle)
  f2h : t.f2h = s.f2h.cycle s.inReset (f2hDue s.build s.freeCount s.nextCycle)
  rndInc : t.rndInc = rndDue none s.build s.freeCount s.nextCycle
  stimulus : t.stimulus = s.stimulus.tail

theorem step_result {s t : State} (h : step s = .next t) : StepResult s t := by
  obtain ⟨a, d, n, hs, -⟩ := step_form s
  rw [hs] at h
  cases h
  exact ⟨rfl, rfl, rfl, rfl, rfl⟩

/-- A step is determined by the requests it serves, the state as the cycle begins, and the reset. -/
theorem step_congr {s s' : State} (hq : s.requests = s'.requests) (hb : s.beginCycle = s'.beginCycle)
    (hr : s.inReset = s'.inReset) : step s = step s' := by
  simp only [step, runCycle, hq, hb, hr]

theorem step_of_one_request {s : State} {q : Request} {i : Instr} (hq : s.requests = [q]) (hi : decode q = .ok i) :
    step s = endOutcome s.inReset (exec i s.beginCycle) := by
  obtain ⟨t, ht, -⟩ := exec_next i s.beginCycle
  rw [step, runCycle, hq, serve_ok hi ht, ht]
  rfl

theorem channelRequests_presenting (q : Request) :
    (Cycle.presenting q).channelRequests ++ (Cycle.presenting q).internalRequests = [q] := by
  cases q with
  | f2h w =>
    exact congrArg (fun v => [Request.f2h v]) (BitVec.extractLsb'_append_extractLsb' (w := 3) (len := 32))
  | h2f w => rfl
  | rnd w => rfl
  | norm16 w => rfl
  | denorm32 w => rfl

theorem inReset_present (s : State) (q : Request) : (s.present q).inReset = false := by
  cases q <;> rfl

theorem requests_present (s : State) (q : Request) : (s.present q).requests = [q] := by
  rw [State.requests, inReset_present]
  exact channelRequests_presenting q

/-! ### The statements on one step -/

/-- Settles O41: `step_of_one_request`; a request presented alone is the only one and comes with `rst` low. -/
theorem stepRunsTheDecodedOperation : Obligations.StepRunsTheDecodedOperation := by
  refine ⟨fun s q i => step_of_one_request, fun s q i hi => ?_⟩
  have h := step_of_one_request (requests_present s q) hi
  rwa [inReset_present] at h

/-- Settles O42: the step with both channels due. -/
theorem twoChannelCycle : Obligations.TwoChannelCycle := by
  intro s m hr h1 h2 hm hi
  refine ⟨h2fUnit s.nextCycle.h2fDataI, f2hUnit s.build m s.nextCycle.f2hDataI,
    ⟨_, exec_h2f _ s, rfl⟩, ⟨_, exec_f2hOf m _ s, rfl⟩, ?_⟩
  rw [step_of_no_internal hi, hr, h2fDue_of_valid h1, f2hDue_of_code h2 hm]
  rfl

/-- Settles O43: the step with nothing due. -/
theorem idleCycle : Obligations.IdleCycle := by
  intro s hr h1 h2 hi
  rw [step_of_no_internal hi, hr, h2fDue_of_invalid h1, f2hDue_of_invalid h2]
  rfl

/-- Settles O44: a reset edge empties a channel whatever was due. -/
theorem resetCycle : Obligations.ResetCycle := by
  intro s hr hl hi
  refine ⟨_, step_of_no_internal hi, ?_, ?_, ?_⟩
  · simp [State.h2fValidO, inReset_of_rst hr hl, cycle_reset]
  · simp [State.f2hValidO, inReset_of_rst hr hl, cycle_reset]
  · simp only [inReset_of_rst hr hl, cycle_reset]

/-- The step relation keeps the depth of the pipelines. -/
theorem step_keeps_depth {s t : State} (hd : s.DepthInv) (h : step s = .next t) : t.DepthInv := by
  obtain ⟨hb, h1, h2, -, -⟩ := step_result h
  obtain ⟨d1, d2⟩ := hd
  constructor
  · rw [h1, hb, cycle_stages_length, d1]
  · rw [h2, hb, cycle_stages_length, d2]

/-- Settles O45: neither the clock edge nor the reset edge changes the number of stages. -/
theorem stepKeepsPipelineDepth : Obligations.StepKeepsPipelineDepth :=
  fun _ _ => step_keeps_depth

/-- Settles O46: reset makes `LATENCY` empty stages, whatever `LATENCY` is. -/
theorem resetHasFullEmptyPipelines : Obligations.ResetHasFullEmptyPipelines := by
  refine ⟨⟨List.length_replicate, List.length_replicate⟩, fun o ho => ?_, fun o ho => ?_, rfl, rfl⟩
  · exact List.eq_of_mem_replicate ho
  · exact List.eq_of_mem_replicate ho

/-- Settles O50: a field of `step_result`. -/
theorem buildParametersNeverChange : Obligations.BuildParametersNeverChange :=
  fun _ _ h => (step_result h).build

/-- Settles O51: a channel after a step is a function of itself, the reset, and its own answer. -/
theorem channelsAreIndependent : Obligations.ChannelsAreIndependent := by
  intro s s' t t' hb hrst ht ht'
  obtain ⟨-, h1, h2, -, -⟩ := step_result ht
  obtain ⟨-, h1', h2', -, -⟩ := step_result ht'
  have hr := inReset_congr hb hrst
  refine ⟨fun hc hv hd => ?_, fun hc hv hd hm hl => ?_, fun hc hv => ?_, fun hc hv => ?_⟩
  · rw [h1, h1', hr, hc, h2fDue_congr hv hd]
  · have hn : f2hDue s.build s.freeCount s.nextCycle = f2hDue s.build s'.freeCount s.nextCycle :=
      hl.elim (fun hleg => f2hDue_legal hleg _ _ _) (fun hcount => by rw [hcount])
    rw [h2, h2', hr, hc, hn, hb, f2hDue_congr hv hd hm]
  · rw [h1, h1', hr]
    exact cycle_validBits_congr _ hc (by rw [h2fDue_isSome, h2fDue_isSome, hv])
  · rw [h2, h2', hr]
    exact cycle_validBits_congr _ hc (by rw [f2hDue_isSome, f2hDue_isSome, hv])

/-- Settles O52: with legal codes no answer depends on the counter. -/
theorem answersDoNotDependOnHistory : Obligations.AnswersDoNotDependOnHistory := by
  intro s s' t t' hb hc ht ht'
  obtain ⟨-, h1, h2, h3, -⟩ := step_result ht
  obtain ⟨-, h1', h2', h3', -⟩ := step_result ht'
  have hr := inReset_congr hb (congrArg Cycle.rst hc)
  refine ⟨?_, fun hl => ?_, fun hl => ?_⟩
  · rw [h1, h1', cycle_answer, cycle_answer, hr, hc]
  · rw [h2, h2', cycle_answer, cycle_answer, hr, f2hDue_legal hl _ _ s'.freeCount, hb, hc]
  · rw [h3, h3', rndDue_legal hl _ _ _ s'.freeCount, hb, hc]

/-- Settles O53: a channel with valid 0 makes no request, and nothing else reads its inputs. -/
theorem invalidInputsAreIgnored : Obligations.InvalidInputsAreIgnored := by
  intro s c rest d16 d32 rm
  refine ⟨fun hv => step_congr ?_ rfl rfl, fun hv => step_congr ?_ rfl rfl⟩
  · simp [State.requests, State.inReset, State.nextCycle, Cycle.channelRequests, Cycle.internalRequests, hv]
  · simp [State.requests, State.inReset, State.nextCycle, Cycle.channelRequests, Cycle.internalRequests, hv]

/-- Settles O55: outside reset the answer of a channel is what is due. -/
theorem everyCycleIsAnswered : Obligations.EveryCycleIsAnswered := by
  intro s
  obtain ⟨u, -, -, hs⟩ := step_next s
  obtain ⟨-, h1, h2, -, -⟩ := step_result hs
  refine ⟨_, hs, fun hr => ?_⟩
  rw [h1, h2, cycle_answer, cycle_answer, hr]
  exact ⟨h2fDue_isSome _, f2hDue_isSome _ _ _⟩

/-- Settles O56: with no stage the output ports show what is due in the cycle. -/
theorem zeroLatencyIsCombinational : Obligations.ZeroLatencyIsCombinational := by
  intro s t hd hl ht
  obtain ⟨-, h1, h2, -, -⟩ := step_result ht
  obtain ⟨d1, d2⟩ := hd
  rw [inReset_of_no_stage hl] at h1 h2
  have o1 : t.h2f.out = h2fDue s.nextCycle := by
    rw [h1, cycle_out_of_no_stage _ (List.length_eq_zero_iff.mp (d1.trans hl))]
  have o2 : t.f2h.out = f2hDue s.build s.freeCount s.nextCycle := by
    rw [h2, cycle_out_of_no_stage _ (List.length_eq_zero_iff.mp (d2.trans hl))]
  refine ⟨?_, ?_, fun hv => ⟨_, exec_h2f _ s, ?_⟩, fun m hv hm => ⟨_, exec_f2hOf m _ s, ?_⟩⟩
  · rw [State.h2fValidO, o1, h2fDue_isSome]
  · rw [State.f2hValidO, o2, f2hDue_isSome]
  · simp [State.h2fDataO, o1, h2fDue_of_valid hv]
  · simp [State.f2hDataO, State.f2hOvfO, State.f2hInxO, o2, f2hDue_of_code hv hm]

/-- Cycles that differ in RND's request alone leave the same state but for `rnd_inc`. -/
theorem step_of_rnd_request (s : State) (c : Cycle) (rest : List Cycle) : ∃ t : State, ∀ r : Option (BitVec 7),
    step { s with stimulus := { c with rndReq := r } :: rest } =
      .next { t with rndInc := rndDue none s.build s.freeCount { c with rndReq := r } } := by
  let s' : State := { s with stimulus := c :: rest }
  obtain ⟨a, d, n, k⟩ := serve_internal c s'.afterChannels
  refine ⟨({ s'.afterChannels with norm16 := a, denorm32 := d, freeCount := n } : State).endCycle s'.inReset,
    fun r => ?_⟩
  have hrnd : rndDue s'.afterChannels.rndInc s'.afterChannels.build s'.afterChannels.freeCount { c with rndReq := r } =
      rndDue none s.build s.freeCount { c with rndReq := r } := by
    rw [afterChannels_rndInc, afterChannels_build, afterChannels_freeCount]
  rw [← hrnd]
  exact (step_eq _).trans (congrArg (endOutcome _) (k r))

/-- Settles O57: F2H's response is due whatever its code, and RND's request reaches only `rnd_inc`. -/
theorem reservedModeDisturbsNothing : Obligations.ReservedModeDisturbsNothing := by
  refine ⟨fun s hr hv _ _ hi => ?_, fun s c rest rm x _ _ => ?_⟩
  · refine ⟨h2fDue s.nextCycle, f2hReply s.build s.freeCount s.nextCycle.f2hRmI s.nextCycle.f2hDataI,
      h2fDue_isSome _, fun hv1 => ⟨_, exec_h2f _ s, (h2fDue_of_valid hv1).symm⟩, ?_⟩
    rw [step_of_no_internal hi, hr, f2hDue_of_valid hv]
    rfl
  · obtain ⟨t, k⟩ := step_of_rnd_request s c rest
    exact ⟨rndReply s.build s.freeCount (rm ++ x), _, k none, k (some (rm ++ x))⟩

/-! ### Runs of several cycles (10_state.md R21) -/

theorem runCycles_zero {s u : State} : runCycles 0 s = .next u ↔ s = u :=
  Iff.of_eq (Host.Outcome.next.injEq s u)

theorem runCycles_succ (k : Nat) (s u : State) :
    runCycles (k + 1) s = .next u ↔ ∃ t, step s = .next t ∧ runCycles k t = .next u := by
  obtain ⟨v, -, -, hs⟩ := step_next s
  have hrun : runCycles (k + 1) s = runCycles k (v.endCycle s.inReset) := by
    simp only [runCycles, Host.Core.run, Sys2Proof.core, hs]
  simp [hrun, hs]

/-- No reset in the next `n + 1` cycles: none in the coming one, and none in the `n` after it. -/
theorem noResetFor_succ {s t : State} {n : Nat} (h : s.noResetFor (n + 1) = true) (ht : step s = .next t) :
    s.inReset = false ∧ t.noResetFor n = true := by
  obtain ⟨hb, -, -, -, hst⟩ := step_result ht
  unfold State.noResetFor at h ⊢
  unfold State.inReset State.nextCycle
  rw [hb, hst]
  cases hs : s.stimulus with
  | nil => simp [Cycle.idle]
  | cons c cs => simpa [hs, or_iff_not_imp_left] using h

/-- A view of the state that moves on as a channel does, with some answer in each cycle. -/
def MovesOn {α : Type} (ch : State → Channel α) : Prop :=
  ∀ s t : State, step s = .next t → ∃ a : Option α, ch t = (ch s).cycle s.inReset a

theorem h2f_movesOn : MovesOn State.h2f := fun _ _ h => ⟨_, (step_result h).h2f⟩

theorem f2h_movesOn : MovesOn State.f2h := fun _ _ h => ⟨_, (step_result h).f2h⟩

section
variable {α : Type} {ch : State → Channel α}

/-- Without a reset, what a stage holds leaves after as many cycles as there are stages from it to the ports. -/
theorem stage_leaves (hch : MovesOn ch) (k i : Nat) {s u : State} (hr : s.noResetFor (k + 1) = true)
    (hu : runCycles (k + 1) s = .next u) (hi : i + k + 1 = (ch s).stages.length) :
    (ch s).stages[i]? = some (ch u).out := by
  induction k generalizing i s with
  | zero =>
    obtain ⟨t, ht, htu⟩ := (runCycles_succ 0 s u).mp hu
    obtain rfl := runCycles_zero.mp htu
    obtain ⟨a, ha⟩ := hch s t ht
    obtain ⟨hrs, -⟩ := noResetFor_succ hr ht
    rw [ha, hrs, cycle_run, List.getLastD_eq_getLast?, List.getLast?_eq_getElem?]
    obtain rfl : i = (ch s).stages.length - 1 := by omega
    simp [List.getElem?_eq_getElem (show (ch s).stages.length - 1 < (ch s).stages.length by omega)]
  | succ k ih =>
    obtain ⟨t, ht, htu⟩ := (runCycles_succ (k + 1) s u).mp hu
    obtain ⟨a, ha⟩ := hch s t ht
    obtain ⟨hrs, hrt⟩ := noResetFor_succ hr ht
    have hnext : (ch t).stages[i + 1]? = (ch s).stages[i]? := by
      rw [ha, hrs, cycle_run, List.getElem?_dropLast, List.length_cons, if_pos (by omega), List.getElem?_cons_succ]
    rw [← hnext]
    refine ih (i + 1) hrt htu ?_
    rw [ha, cycle_stages_length]
    omega

/-- The answer of a step is what the ports show `LATENCY` cycles later. -/
theorem answer_leaves (hch : MovesOn ch) {s t u : State} (hd : (ch s).stages.length = s.build.latency)
    (ht : step s = .next t) (hr : t.noResetFor t.build.latency = true)
    (hu : runCycles t.build.latency t = .next u) : (ch u).out = (ch t).answer := by
  obtain ⟨a, ha⟩ := hch s t ht
  have hb := (step_result ht).build
  rw [hb] at hr hu
  cases hl : s.build.latency with
  | zero =>
    rw [hl] at hu hd
    obtain rfl := runCycles_zero.mp hu
    rw [ha, inReset_of_no_stage hl, cycle_out_of_no_stage _ (List.length_eq_zero_iff.mp hd), cycle_answer]
    rfl
  | succ k =>
    rw [hl] at hu hr hd
    have hfirst := stage_leaves hch k 0 hr hu (by rw [ha, cycle_stages_length, hd]; omega)
    rw [ha, cycle_first_stage _ _ (by intro h0; simp [h0] at hd), ← ha] at hfirst
    exact (Option.some.inj hfirst).symm

end

/-- Settles O49: both channels are views that move on. -/
theorem responseLeavesAfterLatency : Obligations.ResponseLeavesAfterLatency := by
  intro s t u hd ht hr hu
  obtain ⟨d1, d2⟩ := hd
  exact ⟨answer_leaves h2f_movesOn d1 ht hr hu, answer_leaves f2h_movesOn d2 ht hr hu⟩

end Sys2Proof.Machine

/-! ## Formats: binary16 by magnitude, and the statements O5, O6 (30_encoding.md R41 to R48) -/

namespace Sys2Proof.Machine

/-! ### The value of a magnitude -/

/-- `1024 * e + k` stands for `k * 2^e` units of `2^-24` as long as `k` needs no more than one carry into the exponent:
the order of magnitudes runs on over the exponents (30_encoding.md R48). -/
theorem magUnits_eq {e k : Nat} (hk : k ≤ 2048) (h : 1024 ≤ k ∨ e = 0) :
    magUnits (1024 * e + k) = k * 2 ^ (e + 125) := by
  have hpow : k * 2 ^ (e + 125) = k * 2 ^ e * 2 ^ 125 := by rw [Nat.pow_add, Nat.mul_assoc]
  rw [magUnits, hpow]
  refine congrArg (· * 2 ^ 125) ?_
  by_cases h0 : k < 1024
  · obtain rfl : e = 0 := by omega
    rw [show (1024 * 0 + k) / 1024 = 0 by omega, show (1024 * 0 + k) % 1024 = k by omega]
    simp [units16]
  · by_cases h1 : k < 2048
    · rw [show (1024 * e + k) / 1024 = e + 1 by omega, show (1024 * e + k) % 1024 = k - 1024 by omega, units16,
        if_neg (Nat.succ_ne_zero e), show 1024 + (k - 1024) = k by omega, Nat.add_sub_cancel]
    · obtain rfl : k = 2048 := by omega
      rw [show (1024 * e + 2048) / 1024 = e + 2 by omega, show (1024 * e + 2048) % 1024 = 0 by omega, units16,
        if_neg (Nat.succ_ne_zero _), show e + 2 - 1 = e + 1 by omega, Nat.pow_succ]
      omega

theorem magUnits_strictMono : StrictMono magUnits := by
  refine strictMono_nat_of_lt_succ fun n => ?_
  obtain ⟨e, k, rfl, hk, h⟩ : ∃ e k, n = 1024 * e + k ∧ k < 2048 ∧ (1024 ≤ k ∨ e = 0) :=
    ⟨n / 1024 - 1, n - 1024 * (n / 1024 - 1), by omega, by omega, by omega⟩
  rw [Nat.add_assoc, magUnits_eq (by omega) h, magUnits_eq (by omega) (by omega)]
  exact Nat.mul_lt_mul_of_pos_right (Nat.lt_succ_self k) (Nat.two_pow_pos _)

theorem magUnits_le_iff {r r' : Nat} : magUnits r ≤ magUnits r' ↔ r ≤ r' := magUnits_strictMono.le_iff_le

theorem magUnits_lt_iff {r r' : Nat} : magUnits r < magUnits r' ↔ r < r' := magUnits_strictMono.lt_iff_lt

theorem magUnits_mag16 (h : Half) : magUnits (mag16 h).toNat = units16 (exp16 h).toNat (man16 h).toNat * 2 ^ 125 := by
  have hM := (man16 h).isLt
  rw [magUnits, mag16_toNat, show ((exp16 h).toNat * 1024 + (man16 h).toNat) / 1024 = (exp16 h).toNat by omega,
    show ((exp16 h).toNat * 1024 + (man16 h).toNat) % 1024 = (man16 h).toNat by omega]

/-! ### Class and value by the magnitude -/

theorem exp16_eq_ones_iff (h : Half) : exp16 h = 31#5 ↔ 0x7C00 ≤ (mag16 h).toNat := by
  have hE := (exp16 h).isLt
  have hM := (man16 h).isLt
  rw [mag16_toNat, ← BitVec.toNat_inj, BitVec.toNat_ofNat]
  omega

theorem exp16_eq_zero_iff (h : Half) : exp16 h = 0#5 ↔ (mag16 h).toNat < 1024 := by
  have hM := (man16 h).isLt
  rw [mag16_toNat, ← BitVec.toNat_inj, BitVec.toNat_ofNat]
  omega

theorem man16_eq_zero_iff (h : Half) : man16 h = 0#10 ↔ (mag16 h).toNat % 1024 = 0 := by
  have hM := (man16 h).isLt
  rw [mag16_toNat, ← BitVec.toNat_inj, BitVec.toNat_ofNat]
  omega

/-- The table of classes (30_encoding.md R41) as one case distinction on the magnitude. -/
theorem class16_by_mag (h : Half) : class16 h =
    if (mag16 h).toNat = 0 then .zero
    else if (mag16 h).toNat < 0x400 then .subnormal
    else if (mag16 h).toNat < 0x7C00 then .normal
    else if (mag16 h).toNat = 0x7C00 then .infinite
    else .nan := by
  have hlt := (mag16 h).isLt
  have h0 : exp16 h = 0 ↔ (mag16 h).toNat < 1024 := exp16_eq_zero_iff h
  have h31 : exp16 h = 31 ↔ 0x7C00 ≤ (mag16 h).toNat := exp16_eq_ones_iff h
  have hm : man16 h = 0 ↔ (mag16 h).toNat % 1024 = 0 := man16_eq_zero_iff h
  simp only [class16, ne_eq, h0, h31, hm]
  by_cases hzero : (mag16 h).toNat = 0
  · rw [if_pos (by omega), if_pos hzero]
  · rw [if_neg (by omega), if_neg hzero]
    by_cases hsub : (mag16 h).toNat < 0x400
    · rw [if_pos (by omega), if_pos hsub]
    · rw [if_neg (by omega), if_neg hsub]
      by_cases hinf : (mag16 h).toNat = 0x7C00
      · rw [if_pos (by omega), if_neg (by omega), if_pos hinf]
      · rw [if_neg (by omega)]
        by_cases hnorm : (mag16 h).toNat < 0x7C00
        · rw [if_neg (by omega), if_pos hnorm]
        · rw [if_pos (by omega), if_neg hnorm, if_neg hinf]

/-- The quiet bit of a NaN splits its range in halves (30_encoding.md R42). -/
theorem man16_quietBit_iff {h : Half} (hn : 0x7C01 ≤ (mag16 h).toNat) :
    (man16 h).getLsbD 9 = true ↔ 0x7E00 ≤ (mag16 h).toNat := by
  have hE := (exp16 h).isLt
  have hM := (man16 h).isLt
  have hmag := mag16_toNat h
  constructor
  · intro hb
    have := Nat.ge_two_pow_of_testBit hb
    omega
  · intro hq
    exact Nat.testBit_of_two_pow_le_and_two_pow_add_one_gt (by omega) hM

theorem class16_nan_iff (h : Half) : class16 h = .nan ↔ 0x7C01 ≤ (mag16 h).toNat := by
  rw [class16_by_mag]
  split_ifs <;> simp <;> omega

theorem class16_infinite_iff (h : Half) : class16 h = .infinite ↔ (mag16 h).toNat = 0x7C00 := by
  rw [class16_by_mag]
  split_ifs <;> simp <;> omega

theorem class16_zero_or_subnormal_iff (h : Half) :
    class16 h = .zero ∨ class16 h = .subnormal ↔ (mag16 h).toNat < 0x400 := by
  rw [class16_by_mag]
  split_ifs <;> simp <;> omega

theorem value16_of_finite {h : Half} (hlt : (mag16 h).toNat < 0x7C00) :
    value16 h = .fin (sign16 h) (magUnits (mag16 h).toNat) := by
  have h31 : exp16 h ≠ 31#5 := by
    rw [ne_eq, exp16_eq_ones_iff]
    omega
  simp [value16, h31, magUnits_mag16]

theorem value16_of_infinite {h : Half} (hi : (mag16 h).toNat = 0x7C00) : value16 h = .inf (sign16 h) :=
  value16_infinite ((exp16_eq_ones_iff h).mpr (Nat.le_of_eq hi.symm)) ((man16_eq_zero_iff h).mpr (by rw [hi]))

/-! ### The statements -/

/-- Settles O5: `class16_by_mag`, and the quiet bit within the NaNs. -/
theorem classesOfHalfPatterns : Obligations.ClassesOfHalfPatterns := by
  intro h
  have hn := class16_nan_iff h
  refine ⟨?zero, ?subnormal, ?normal, class16_infinite_iff h, hn, ?signaling, ?quiet⟩
  case zero => rw [class16_by_mag]; split_ifs <;> simp <;> omega
  case subnormal => rw [class16_by_mag]; split_ifs <;> simp <;> omega
  case normal => rw [class16_by_mag]; split_ifs <;> simp <;> omega
  case signaling =>
    by_cases hr : 0x7C01 ≤ (mag16 h).toNat
    · have hq := man16_quietBit_iff hr
      simp only [signaling16, hn.mpr hr, beq_self_eq_true, Bool.true_and, Bool.not_eq_true', ← Bool.not_eq_true, hq]
      omega
    · rw [signaling16, beq_eq_false_iff_ne.mpr (mt hn.mp hr), Bool.false_and]
      exact iff_of_false Bool.false_ne_true (by omega)
  case quiet =>
    by_cases hr : 0x7C01 ≤ (mag16 h).toNat
    · simp only [quiet16, hn.mpr hr, beq_self_eq_true, Bool.true_and, man16_quietBit_iff hr]
    · rw [quiet16, beq_eq_false_iff_ne.mpr (mt hn.mp hr), Bool.false_and]
      exact iff_of_false Bool.false_ne_true (by omega)

/-- Settles O6: the value of a finite magnitude is `magUnits`, which is strictly monotone; infinity is on top of both
orders. -/
theorem magnitudeOrderIsValueOrder : Obligations.MagnitudeOrderIsValueOrder := by
  intro a b ha hb
  rcases Nat.lt_or_eq_of_le ha with ha | ha <;> rcases Nat.lt_or_eq_of_le hb with hb | hb
  · simp [value16_of_finite ha, value16_of_finite hb, Ext.abs, Ext.le, signedUnits, magUnits_le_iff]
  · rw [value16_of_finite ha, value16_of_infinite hb]
    exact iff_of_true rfl (by omega)
  · rw [value16_of_infinite ha, value16_of_finite hb]
    exact iff_of_false Bool.false_ne_true (by omega)
  · rw [value16_of_infinite ha, value16_of_infinite hb]
    exact iff_of_true rfl (by omega)

end Sys2Proof.Machine

/-! ## Unit H2F: its image, and the statements O7 and O13 (40_h2f.md R76, 30_encoding.md R49) -/

namespace Sys2Proof.Machine

/-- The four cases of R70 in one form: a left-justified mantissa behind an exponent field from the image of R76. -/
theorem h2fUnit_eq_pack (h : Half) : ∃ (e : BitVec 8) (m : BitVec 10),
    h2fUnit h = pack32 (sign16 h) e (leftJustify m) ∧
      ((e = 0#8 ∧ m = 0#10) ∨ (103 ≤ e.toNat ∧ e.toNat ≤ 142) ∨ e = 255#8) := by
  by_cases h31 : exp16 h = 31#5
  · exact ⟨255#8, man16 h, h2fUnit_special h31, .inr (.inr rfl)⟩
  · by_cases h0 : exp16 h = 0#5
    · by_cases hm : man16 h = 0#10
      · exact ⟨0#8, 0#10, h2fUnit_zero h0 hm, .inl ⟨rfl, rfl⟩⟩
      · have hk := (clz10_spec (man16 h) hm).1
        have he := norm16Unit_e8 (man16 h) hm
        exact ⟨_, _, h2fUnit_subnormal h0 hm, .inr (.inl ⟨by omega, by omega⟩)⟩
    · have hlt := (exp16 h).isLt
      have hE : (exp16 h).toNat ≠ 0 := BitVec.toNat_ne.mp h0
      have hE31 : (exp16 h).toNat ≠ 31 := BitVec.toNat_ne.mp h31
      have he := rebias_toNat (exp16 h)
      exact ⟨_, _, h2fUnit_normal h0 h31, .inr (.inl ⟨by omega, by omega⟩)⟩

theorem sign32_h2fUnit (h : Half) : sign32 (h2fUnit h) = sign16 h := by
  obtain ⟨e, m, hf, -⟩ := h2fUnit_eq_pack h
  rw [hf, sign32_pack32]

theorem low_h2fUnit (h : Half) : (h2fUnit h).extractLsb' 0 13 = 0#13 := by
  obtain ⟨e, m, hf, -⟩ := h2fUnit_eq_pack h
  rw [hf, ← low_leftJustify m]
  exact extract_append_inner (BitVec.ofBool (sign16 h) ++ e) (leftJustify m) (by decide)

theorem exp32_h2fUnit (h : Half) : (exp32 (h2fUnit h) = 0#8 ∧ man32 (h2fUnit h) = 0#23) ∨
    (103 ≤ (exp32 (h2fUnit h)).toNat ∧ (exp32 (h2fUnit h)).toNat ≤ 142) ∨ exp32 (h2fUnit h) = 255#8 := by
  obtain ⟨e, m, hf, he⟩ := h2fUnit_eq_pack h
  rw [hf, exp32_pack32, man32_pack32]
  exact he.imp_left fun ⟨h0, hm⟩ => ⟨h0, leftJustify_eq_zero.mpr hm⟩

/-- The check that the invariant of the channel uses holds of every word of the unit. -/
theorem h2fImage_h2fUnit (h : Half) : h2fImage (h2fUnit h) = true := by
  have he := exp32_h2fUnit h
  simp only [h2fImage, low_h2fUnit, beq_self_eq_true, Bool.true_and, Bool.or_eq_true, Bool.and_eq_true, beq_iff_eq,
    decide_eq_true_iff]
  exact or_assoc.mpr he

/-- Settles O7: the thirteen words are evaluated; none is a NaN, so the value is kept. -/
theorem namedPatternsWiden : Obligations.NamedPatternsWiden := by
  intro s p hp
  have hall : h2fUnit p.1 = p.2 ∧ class16 p.1 ≠ .nan := by
    simp only [List.mem_cons, List.not_mem_nil, or_false] at hp
    rcases hp with rfl | rfl | rfl | rfl | rfl | rfl | rfl | rfl | rfl | rfl | rfl | rfl | rfl <;> decide
  obtain ⟨hf, hn⟩ := hall
  rw [← hf]
  exact ⟨exec_h2f p.1 s, value32_h2fUnit hn⟩

/-- Settles O13: `h2fUnit_eq_pack`, field by field. -/
theorem h2fAnswersLieInTheImage : Obligations.H2fAnswersLieInTheImage :=
  fun h s => ⟨h2fUnit h, exec_h2f h s, low_h2fUnit h, sign32_h2fUnit h, exp32_h2fUnit h⟩

end Sys2Proof.Machine

/-! ## Units RND and SUB: the statements O35, O37, O39, O40 (42_rounding_unit.md R116, 43_subnormal_handler.md R121,
R122) -/

namespace Sys2Proof.Machine

/-- Off the ties the tie rule does not matter (42_rounding_unit.md R116). -/
theorem incNearest_off_tie (ties ties' : Ties) (l : Bool) {g t : Bool} (h : ¬ (g = true ∧ t = false)) :
    incNearest ties l g t = incNearest ties' l g t := by
  cases g with
  | false => rfl
  | true =>
    obtain rfl : t = true := by simpa using h
    rfl

/-- Settles O35: equations of the unit. -/
theorem rndLaws : Obligations.RndLaws := by
  intro sgn l g t s
  refine ⟨fun m => exec_rndOf_of_unit (rndUnit_exact _ m sgn l), ?_, fun h => ?_⟩
  · refine (exec_rndOf .rd sgn l g t s).trans ((exec_rndOf .ru (!sgn) l g t s).trans ?_).symm
    simp only [rndUnit, Bool.not_not]
  · refine (exec_rndOf .ind sgn l g t s).trans ((exec_rndOf .rn sgn l g t s).trans ?_).symm
    simp only [rndUnit, incNearest_off_tie _ s.build.indTies l h]

/-- Settles O37: the zero mantissa takes the free answer. -/
theorem norm16OfZeroStillAnswers : Obligations.Norm16OfZeroStillAnswers :=
  fun _ => ⟨_, rfl⟩

/-- Settles O40: a large exponent takes the free answer. -/
theorem denorm32OfLargeExponentStillAnswers : Obligations.Denorm32OfLargeExponentStillAnswers :=
  fun _ _ _ h143 => ⟨_, if_pos h143⟩

/-! ### The table of R122 -/

theorem alignShift_normal {e8 : BitVec 8} (h : 113 ≤ e8.toNat) : alignShift e8 = 13 := if_pos h

theorem denorm32Response_eq {d d' : Denorm32Response} (he : d.ebase = d'.ebase) (hk : d.kept = d'.kept)
    (hg : d.g = d'.g) (ht : d.t = d'.t) : d = d' := by
  cases d
  cases d'
  simp_all

/-- The cut of the significand determines the response. -/
theorem denorm32Unit_of_cut {e8 : BitVec 8} {m23 : BitVec 23} (h142 : e8.toNat ≤ 142) {d : Denorm32Response}
    (he : d.ebase.toNat = e8.toNat - 113) (hk : d.kept.toNat = significand e8 m23 / 2 ^ alignShift e8)
    (hg : d.g = decide (significand e8 m23 / 2 ^ (alignShift e8 - 1) % 2 = 1))
    (ht : d.t = true ↔ significand e8 m23 % 2 ^ (alignShift e8 - 1) ≠ 0) : denorm32Unit e8 m23 = d := by
  apply denorm32Response_eq
  · exact BitVec.eq_of_toNat_eq ((denorm32Unit_ebase h142 m23).trans he.symm)
  · exact BitVec.eq_of_toNat_eq ((denorm32Unit_kept e8 m23).trans hk.symm)
  · exact (denorm32Unit_guard e8 m23).trans hg.symm
  · rw [Bool.eq_iff_iff, ht, denorm32Unit_sticky, decide_eq_true_iff]

/-- A bit of the mantissa, read from a number that has the mantissa as its low part. -/
theorem getLsbD_eq_div {m23 : BitVec 23} {i : Nat} :
    m23.getLsbD i = decide (m23.toNat / 2 ^ i % 2 = 1) := by
  rw [← BitVec.testBit_toNat, Nat.testBit_eq_decide_div_mod_eq]

/-- `113 <= E8 <= 142`: a normal result. -/
theorem denorm32Unit_normal {e8 : BitVec 8} (h113 : 113 ≤ e8.toNat) (h142 : e8.toNat ≤ 142) (m23 : BitVec 23) :
    denorm32Unit e8 m23 = { ebase := BitVec.ofNat 5 (e8.toNat - 113), kept := 1#1 ++ m23.extractLsb' 13 10,
                            g := m23.getLsbD 12, t := m23.extractLsb' 0 12 != 0#12 } := by
  have hm := m23.isLt
  have he : e8 ≠ 0#8 := by rintro rfl; contradiction
  apply denorm32Unit_of_cut h142
  · rw [BitVec.toNat_ofNat]
    omega
  · have hk : (1#1 ++ m23.extractLsb' 13 10 : BitVec 11).toNat = (1#1).toNat * 2 ^ 10 + _ := append_toNat _ _
    rw [hk, alignShift_normal h113, significand_normal he, BitVec.extractLsb'_toNat, Nat.shiftRight_eq_div_pow,
      BitVec.toNat_ofNat]
    omega
  · rw [alignShift_normal h113, significand_normal he, getLsbD_eq_div]
    exact decide_eq_decide.mpr (by omega)
  · rw [alignShift_normal h113, significand_normal he, bne_iff_ne, BitVec.toNat_ne, BitVec.extractLsb'_toNat,
      BitVec.toNat_ofNat, Nat.shiftRight_zero]
    omega

/-- `103 <= E8 <= 112`: a subnormal result, the leading one at bit `10 - j`. -/
theorem denorm32Unit_subnormal {e8 : BitVec 8} {j : Nat} (h1 : 1 ≤ j) (h10 : j ≤ 10) (h : e8.toNat = 113 - j)
    (m23 : BitVec 23) :
    denorm32Unit e8 m23 = { ebase := 0#5, kept := BitVec.ofNat 11 (2 ^ (10 - j) + m23.toNat / 2 ^ (13 + j)),
                            g := m23.getLsbD (12 + j), t := decide (m23.toNat % 2 ^ (12 + j) ≠ 0) } := by
  have hm := m23.isLt
  obtain ⟨he, -⟩ := exp_ne_of_bounds (show 1 ≤ e8.toNat by omega) (by omega)
  have hsh : alignShift e8 = 13 + j := by
    rw [alignShift_subnormal (by omega), h]
    omega
  have hsig : significand e8 m23 = 2 ^ (12 + j) * (2 * 2 ^ (10 - j)) + m23.toNat := by
    rw [significand_normal he, Nat.mul_left_comm, ← Nat.pow_add, show 12 + j + (10 - j) = 22 by omega]
    omega
  have hkept := kept_lt e8 m23
  rw [hsh] at hkept
  have hdiv : significand e8 m23 / 2 ^ (13 + j) = 2 ^ (10 - j) + m23.toNat / 2 ^ (13 + j) := by
    have hpow : 2 ^ (12 + j) * (2 * 2 ^ (10 - j)) = 2 ^ (13 + j) * 2 ^ (10 - j) := by
      rw [show 13 + j = 12 + j + 1 by omega, Nat.pow_succ, Nat.mul_assoc]
    rw [hsig, hpow, Nat.mul_add_div (Nat.two_pow_pos _)]
  apply denorm32Unit_of_cut (by omega)
  · rw [BitVec.toNat_ofNat]
    omega
  · rw [hsh, BitVec.toNat_ofNat, Nat.mod_eq_of_lt (hdiv ▸ hkept), hdiv]
  · rw [hsh, show 13 + j - 1 = 12 + j by omega, hsig, Nat.mul_add_div (Nat.two_pow_pos _), getLsbD_eq_div]
    exact decide_eq_decide.mpr (by omega)
  · rw [hsh, show 13 + j - 1 = 12 + j by omega, hsig, Nat.mul_add_mod, decide_eq_true_iff]

/-- Settles O39: one lemma per row of the table. -/
theorem denorm32Table : Obligations.Denorm32Table := by
  intro e8 m23 s h142
  refine ⟨denorm32Unit e8 m23, exec_subDenorm32_of_le h142 m23 s, fun h113 => denorm32Unit_normal h113 h142 m23,
    fun j h1 h10 h => denorm32Unit_subnormal h1 h10 h m23, fun h => ?_, fun h1 h101 => ?_, fun h => ?_⟩
  · obtain ⟨hb, hk⟩ := denorm32Unit_tiny (Nat.le_of_eq h) m23
    obtain ⟨hg, ht⟩ := denorm32Unit_guard_tiny h m23
    exact denorm32Response_eq hb hk hg (ht.trans (decide_not.trans rfl))
  · obtain ⟨hb, hk⟩ := denorm32Unit_tiny (Nat.le_succ_of_le h101) m23
    obtain ⟨hg, ht⟩ := denorm32Unit_sticky_tiny h101 m23
    have he : e8 ≠ 0#8 := by rintro rfl; contradiction
    exact denorm32Response_eq hb hk hg (ht.trans (decide_eq_true fun h0 => he h0.1))
  · subst h
    obtain ⟨hb, hk⟩ := denorm32Unit_tiny (by decide : (0#8).toNat ≤ 102) m23
    obtain ⟨hg, ht⟩ := denorm32Unit_sticky_tiny (by decide : (0#8).toNat ≤ 101) m23
    refine denorm32Response_eq hb hk hg (ht.trans ?_)
    rw [Bool.eq_iff_iff, decide_eq_true_iff, bne_iff_ne]
    exact not_congr (and_iff_right rfl)

end Sys2Proof.Machine

/-! ## Unit F2H against the value contract: the statement O19 (41_f2h.md R82) -/

namespace Sys2Proof.Machine

/-! ### The two bracketing magnitudes, as the unit computes them -/

/-- The magnitude before the increment: the truncated source. -/
def lowerMag (f : Single) : Nat :=
  if 143 ≤ (exp32 f).toNat then 0x7BFF
  else 1024 * (denorm32Unit (exp32 f) (man32 f)).ebase.toNat + (denorm32Unit (exp32 f) (man32 f)).kept.toNat

/-- Whether the truncated source differs from the source. -/
def cutInexact (f : Single) : Bool :=
  decide (143 ≤ (exp32 f).toNat) || (denorm32Unit (exp32 f) (man32 f)).g || (denorm32Unit (exp32 f) (man32 f)).t

theorem cutInexact_general {f : Single} (h142 : (exp32 f).toNat ≤ 142) : cutInexact f =
    ((denorm32Unit (exp32 f) (man32 f)).g || (denorm32Unit (exp32 f) (man32 f)).t) := by
  have h143 : ¬ 143 ≤ (exp32 f).toNat := by omega
  simp [cutInexact, h143]

/-- The magnitude above the source: the same when the truncation is exact, else the next one. -/
def upperMag (f : Single) : Nat := lowerMag f + (cutInexact f).toNat

/-- The magnitude the mode picks between the two (41_f2h.md R82). -/
def resultMag (b : Build) (m : Mode) (f : Single) : Nat :=
  selectMag b m (sign32 f) (value32 f).units (lowerMag f) (upperMag f)

theorem lowerMag_overflow {f : Single} (h143 : 143 ≤ (exp32 f).toNat) : lowerMag f = 0x7BFF := if_pos h143

theorem lowerMag_general {f : Single} (h142 : (exp32 f).toNat ≤ 142) : lowerMag f =
    1024 * (denorm32Unit (exp32 f) (man32 f)).ebase.toNat + (denorm32Unit (exp32 f) (man32 f)).kept.toNat :=
  if_neg (by omega)

theorem upperMag_overflow {f : Single} (h143 : 143 ≤ (exp32 f).toNat) : upperMag f = 0x7C00 := by
  simp [upperMag, lowerMag_overflow h143, cutInexact, h143]

theorem lowerMag_le {f : Single} : lowerMag f ≤ 0x7BFF := by
  by_cases h143 : 143 ≤ (exp32 f).toNat
  · rw [lowerMag_overflow h143]
  · have hb := denorm32Unit_ebase_le (by omega : (exp32 f).toNat ≤ 142) (man32 f)
    have hk := (denorm32Unit (exp32 f) (man32 f)).kept.isLt
    rw [lowerMag_general (by omega)]
    omega

theorem lowerMag_le_upperMag (f : Single) : lowerMag f ≤ upperMag f := Nat.le_add_right _ _

theorem upperMag_le_succ (f : Single) : upperMag f ≤ lowerMag f + 1 := Nat.add_le_add_left (Bool.toNat_le _) _

theorem upperMag_le (f : Single) : upperMag f ≤ 0x7C00 :=
  (upperMag_le_succ f).trans (Nat.succ_le_succ lowerMag_le)

theorem lowerMag_eq_upperMag_iff (f : Single) : lowerMag f = upperMag f ↔ cutInexact f = false := by
  unfold upperMag
  cases cutInexact f <;> simp

/-! ### The values of the source and of the brackets -/

theorem value32_finite {f : Single} (he : exp32 f ≠ 255#8) :
    value32 f = .fin (sign32 f) (significand (exp32 f) (man32 f) * 2 ^ ((exp32 f).toNat - 1)) := by
  have h := value32_pack32_finite (sign32 f) (man32 f) he
  rwa [pack32_fields] at h

theorem value32_eq_fin {f : Single} (he : exp32 f ≠ 255#8) : value32 f = .fin (sign32 f) (value32 f).units := by
  rw [value32_finite he]
  rfl

theorem units32_finite {f : Single} (he : exp32 f ≠ 255#8) :
    (value32 f).units = significand (exp32 f) (man32 f) * 2 ^ ((exp32 f).toNat - 1) := by
  rw [value32_finite he]
  rfl

/-- A normal result keeps the leading one. -/
theorem denorm32Unit_kept_normal {e8 : BitVec 8} (h113 : 113 ≤ e8.toNat) (m23 : BitVec 23) :
    1024 ≤ (denorm32Unit e8 m23).kept.toNat := by
  have he : e8 ≠ 0#8 := by rintro rfl; contradiction
  rw [denorm32Unit_kept, alignShift_normal h113, significand_normal he]
  omega

/-- The kept bits are worth `2^sh` units of the source's last place (41_f2h.md R86): with the base exponent they make a
binary16 magnitude, and so does their successor. -/
theorem magUnits_kept {e8 : BitVec 8} (h142 : e8.toNat ≤ 142) (m23 : BitVec 23) {i : Nat} (hi : i ≤ 1) :
    magUnits (1024 * (denorm32Unit e8 m23).ebase.toNat + (denorm32Unit e8 m23).kept.toNat + i) =
      ((denorm32Unit e8 m23).kept.toNat + i) * 2 ^ alignShift e8 * 2 ^ (e8.toNat - 1) := by
  have hk := (denorm32Unit e8 m23).kept.isLt
  have hbase := denorm32Unit_ebase h142 m23
  have hlarge : 1024 ≤ (denorm32Unit e8 m23).kept.toNat ∨ (denorm32Unit e8 m23).ebase.toNat = 0 := by
    by_cases h113 : 113 ≤ e8.toNat
    · exact .inl (denorm32Unit_kept_normal h113 m23)
    · omega
  have hexp : (denorm32Unit e8 m23).ebase.toNat + 125 = alignShift e8 + (e8.toNat - 1) := by
    by_cases h113 : 113 ≤ e8.toNat
    · rw [alignShift_normal h113]
      omega
    · rw [alignShift_subnormal (by omega)]
      omega
  rw [Nat.add_assoc, magUnits_eq (by omega) (by omega), hexp, Nat.pow_add, Nat.mul_assoc]

/-- The general path in terms of values: between the truncated magnitude and the next lie two halves of `P` units; the
guard bit says which half the source is in, and `R` is what is left in that half. -/
theorem source_between {f : Single} (h142 : (exp32 f).toNat ≤ 142) : ∃ P R : Nat, R < P ∧
    ((denorm32Unit (exp32 f) (man32 f)).t = true ↔ R ≠ 0) ∧
    magUnits (lowerMag f + 1) = magUnits (lowerMag f) + 2 * P ∧
    (value32 f).units = magUnits (lowerMag f) + (denorm32Unit (exp32 f) (man32 f)).g.toNat * P + R := by
  have hpos : 0 < 2 ^ ((exp32 f).toNat - 1) := Nat.two_pow_pos _
  have hsh : 2 ^ alignShift (exp32 f) = 2 * 2 ^ (alignShift (exp32 f) - 1) := by
    have := (alignShift_bounds (exp32 f)).1
    rw [← Nat.pow_succ', Nat.succ_eq_add_one, Nat.sub_add_cancel (by omega)]
  have hlo := magUnits_kept h142 (man32 f) (Nat.zero_le 1)
  have hnext := magUnits_kept h142 (man32 f) (Nat.le_refl 1)
  rw [Nat.add_zero] at hlo
  refine ⟨2 ^ (alignShift (exp32 f) - 1) * 2 ^ ((exp32 f).toNat - 1),
    significand (exp32 f) (man32 f) % 2 ^ (alignShift (exp32 f) - 1) * 2 ^ ((exp32 f).toNat - 1), ?_, ?_, ?_, ?_⟩
  · exact Nat.mul_lt_mul_of_pos_right (Nat.mod_lt _ (Nat.two_pow_pos _)) hpos
  · rw [denorm32Unit_sticky, decide_eq_true_iff, ne_eq, ne_eq, Nat.mul_eq_zero, or_iff_left hpos.ne']
  · rw [lowerMag_general h142, hlo, hnext, hsh]
    ring
  · have hcut := denorm32Unit_cut (exp32 f) (man32 f)
    have hg : (if (denorm32Unit (exp32 f) (man32 f)).g then 2 ^ (alignShift (exp32 f) - 1) else 0) =
        (denorm32Unit (exp32 f) (man32 f)).g.toNat * 2 ^ (alignShift (exp32 f) - 1) := by
      cases (denorm32Unit (exp32 f) (man32 f)).g <;> simp
    rw [hg] at hcut
    rw [units32_finite (exp32_ne_ones (by omega)), lowerMag_general h142, hlo]
    conv_lhs => rw [hcut]
    ring

theorem magUnits_max : magUnits 0x7BFF = unitsOf65504 := by decide

theorem magUnits_inf : magUnits 0x7C00 = unitsOf65536 := by decide

/-- `E8 >= 143` is a magnitude of at least `2^16`. -/
theorem units32_overflow {f : Single} (he : exp32 f ≠ 255#8) (h143 : 143 ≤ (exp32 f).toNat) :
    unitsOf65536 ≤ (value32 f).units := by
  have h0 : exp32 f ≠ 0#8 := fun h => by simp [h] at h143
  have hpow : (2 : Nat) ^ 142 ≤ 2 ^ ((exp32 f).toNat - 1) := Nat.pow_le_pow_right (by decide) (by omega)
  have hsig : 2 ^ 23 ≤ significand (exp32 f) (man32 f) := by
    rw [significand_normal h0]
    omega
  rw [units32_finite he]
  exact (show unitsOf65536 = 2 ^ 23 * 2 ^ 142 by decide) ▸ Nat.mul_le_mul hsig hpow

theorem magUnits_lowerMag_le {f : Single} (he : exp32 f ≠ 255#8) : magUnits (lowerMag f) ≤ (value32 f).units := by
  by_cases h143 : 143 ≤ (exp32 f).toNat
  · have hmax : magUnits 0x7BFF ≤ unitsOf65536 := by decide
    rw [lowerMag_overflow h143]
    exact hmax.trans (units32_overflow he h143)
  · obtain ⟨P, R, -, -, -, ha⟩ := source_between (show (exp32 f).toNat ≤ 142 by omega)
    omega

theorem units32_lt_next {f : Single} (h142 : (exp32 f).toNat ≤ 142) :
    (value32 f).units < magUnits (lowerMag f + 1) := by
  obtain ⟨P, R, hR, -, hnext, ha⟩ := source_between h142
  have hg : (denorm32Unit (exp32 f) (man32 f)).g.toNat * P ≤ 1 * P := Nat.mul_le_mul_right P (Bool.toNat_le _)
  omega

/-- The guard and sticky bits say that the truncation lost something. -/
theorem cutInexact_iff {f : Single} (he : exp32 f ≠ 255#8) :
    cutInexact f = true ↔ magUnits (lowerMag f) < (value32 f).units := by
  by_cases h143 : 143 ≤ (exp32 f).toNat
  · have hmax : magUnits 0x7BFF < unitsOf65536 := by decide
    rw [lowerMag_overflow h143]
    exact iff_of_true (by simp [cutInexact, h143]) (lt_of_lt_of_le hmax (units32_overflow he h143))
  · obtain ⟨P, R, hR, ht, -, ha⟩ := source_between (show (exp32 f).toNat ≤ 142 by omega)
    rw [cutInexact_general (by omega), Bool.or_eq_true, ht, ha]
    cases (denorm32Unit (exp32 f) (man32 f)).g with
    | false => simp [Nat.pos_iff_ne_zero]
    | true =>
      rw [Bool.toNat_true]
      exact iff_of_true (.inl rfl) (by omega)

theorem lowerMag_isLowerBracket {f : Single} (he : exp32 f ≠ 255#8) :
    IsLowerBracket (value32 f).units (lowerMag f) := by
  refine ⟨lowerMag_le, magUnits_lowerMag_le he, fun r hr hle => ?_⟩
  by_cases h143 : 143 ≤ (exp32 f).toNat
  · rwa [lowerMag_overflow h143]
  · have hlt := units32_lt_next (show (exp32 f).toNat ≤ 142 by omega)
    exact Nat.lt_succ_iff.mp (magUnits_lt_iff.mp (lt_of_le_of_lt hle hlt))

theorem upperMag_isUpperBracket {f : Single} (he : exp32 f ≠ 255#8) :
    IsUpperBracket (value32 f).units (upperMag f) := by
  have hiff := cutInexact_iff he
  refine ⟨upperMag_le f, ?_, fun r _ hr => ?_⟩
  · by_cases h143 : 143 ≤ (exp32 f).toNat
    · exact .inl (upperMag_overflow h143)
    · have hlt := units32_lt_next (show (exp32 f).toNat ≤ 142 by omega)
      right
      unfold upperMag
      cases hc : cutInexact f with
      | false => exact Nat.le_of_not_lt (mt hiff.mpr (Bool.eq_false_iff.mp hc))
      | true => exact Nat.le_of_lt hlt
  · obtain rfl | hle := hr
    · exact upperMag_le f
    · unfold upperMag
      cases hc : cutInexact f with
      | false => exact magUnits_le_iff.mp ((magUnits_lowerMag_le he).trans hle)
      | true => exact magUnits_lt_iff.mp (lt_of_lt_of_le (hiff.mp hc) hle)

/-! ### The increment is the choice of the contract -/

theorem selectMag_exact (b : Build) (m : Mode) (s : Bool) (a : Nat) {lo hi : Nat} (h : lo = hi) :
    selectMag b m s a lo hi = lo := if_pos h

section
variable (b : Build) (s : Bool) (a : Nat) {lo hi : Nat} (h : lo ≠ hi)
include h

theorem selectMag_rtz : selectMag b .rtz s a lo hi = lo := if_neg h
theorem selectMag_rn : selectMag b .rn s a lo hi = selectNearest b.nearestTies a lo hi := if_neg h
theorem selectMag_ru : selectMag b .ru s a lo hi = if s then lo else hi := if_neg h
theorem selectMag_rd : selectMag b .rd s a lo hi = if s then hi else lo := if_neg h
theorem selectMag_ind : selectMag b .ind s a lo hi = selectNearest b.indTies a lo hi := if_neg h

end

theorem selectNearest_cases (ties : Ties) (a lo hi : Nat) :
    selectNearest ties a lo hi = lo ∨ selectNearest ties a lo hi = hi := by
  unfold selectNearest
  split
  · exact .inl rfl
  · split
    · exact .inr rfl
    · cases ties with
      | even => exact ite_eq_or_eq _ _ _
      | away => exact .inr rfl

/-- Every mode picks a bracket. -/
theorem selectMag_cases (b : Build) (m : Mode) (s : Bool) (a lo hi : Nat) :
    selectMag b m s a lo hi = lo ∨ selectMag b m s a lo hi = hi := by
  by_cases h : lo = hi
  · exact .inl (selectMag_exact b m s a h)
  · cases m with
    | rtz => exact .inl (selectMag_rtz b s a h)
    | rn => rw [selectMag_rn b s a h]; exact selectNearest_cases _ _ _ _
    | ru => rw [selectMag_ru b s a h]; exact ite_eq_or_eq _ _ _
    | rd => rw [selectMag_rd b s a h]; exact (ite_eq_or_eq _ _ _).symm
    | ind => rw [selectMag_ind b s a h]; exact selectNearest_cases _ _ _ _

/-- To nearest, the rounding decision on the last bit, the guard bit and the sticky bit is the comparison of the source
with the middle of the brackets, where the lower has value `L`, the next has `L + 2P` and the source `L + gP + R`. -/
theorem selectNearest_eq_incNearest (ties : Ties) {a lo P R : Nat} {g t : Bool} (hR : R < P) (ht : t = true ↔ R ≠ 0)
    (hnext : magUnits (lo + 1) = magUnits lo + 2 * P) (ha : a = magUnits lo + g.toNat * P + R) :
    selectNearest ties a lo (lo + 1) = lo + (incNearest ties (decide (lo % 2 = 1)) g t).toNat := by
  unfold selectNearest
  rw [hnext, ha]
  cases g with
  | false =>
    rw [Bool.toNat_false, if_pos (by omega)]
    rfl
  | true =>
    rw [Bool.toNat_true, if_neg (by omega)]
    cases t with
    | true =>
      have := ht.mp rfl
      rw [if_pos (by omega)]
      rfl
    | false =>
      have : R = 0 := by simpa using ht
      rw [if_neg (by omega)]
      cases ties with
      | away => rfl
      | even =>
        rcases Nat.mod_two_eq_zero_or_one lo with h | h <;> simp [h, incNearest, tieUp]

/-- The truncated magnitude and the increment make the magnitude that the contract picks (41_f2h.md R82, R86). -/
theorem resultMag_general (b : Build) (m : Mode) {f : Single} (h142 : (exp32 f).toNat ≤ 142) :
    resultMag b m f = lowerMag f +
      (rndUnit b m (sign32 f) ((denorm32Unit (exp32 f) (man32 f)).kept.getLsbD 0)
        (denorm32Unit (exp32 f) (man32 f)).g (denorm32Unit (exp32 f) (man32 f)).t).toNat := by
  obtain ⟨P, R, hR, ht, hnext, ha⟩ := source_between h142
  have hl : (denorm32Unit (exp32 f) (man32 f)).kept.getLsbD 0 = decide (lowerMag f % 2 = 1) := by
    rw [← BitVec.testBit_toNat, Nat.testBit_zero, lowerMag_general h142]
    exact decide_eq_decide.mpr (by omega)
  have hup : upperMag f = lowerMag f +
      ((denorm32Unit (exp32 f) (man32 f)).g || (denorm32Unit (exp32 f) (man32 f)).t).toNat := by
    rw [upperMag, cutInexact_general h142]
  rw [hl, resultMag, hup]
  generalize (denorm32Unit (exp32 f) (man32 f)).g = g at *
  generalize (denorm32Unit (exp32 f) (man32 f)).t = t at *
  by_cases hc : (g || t) = true
  · have hne : lowerMag f ≠ lowerMag f + 1 := (Nat.succ_ne_self _).symm
    rw [hc, Bool.toNat_true]
    cases m with
    | rtz => exact selectMag_rtz b _ _ hne
    | rn => rw [selectMag_rn b _ _ hne]; exact selectNearest_eq_incNearest _ hR ht hnext ha
    | ru => rw [selectMag_ru b _ _ hne, rndUnit, hc]; cases sign32 f <;> rfl
    | rd => rw [selectMag_rd b _ _ hne, rndUnit, hc]; cases sign32 f <;> rfl
    | ind => rw [selectMag_ind b _ _ hne]; exact selectNearest_eq_incNearest _ hR ht hnext ha
  · obtain ⟨rfl, rfl⟩ : g = false ∧ t = false := by simpa using hc
    rw [rndUnit_exact]
    exact selectMag_exact b m _ _ rfl

theorem selectNearest_overflow (ties : Ties) {a : Nat} (ha : unitsOf65536 ≤ a) :
    selectNearest ties a 0x7BFF 0x7C00 = 0x7C00 := by
  have h : magUnits 0x7BFF + magUnits 0x7C00 < 2 * unitsOf65536 := by decide
  unfold selectNearest
  rw [if_neg (by omega), if_pos (by omega)]

theorem resultMag_overflow (b : Build) (m : Mode) {f : Single} (he : exp32 f ≠ 255#8)
    (h143 : 143 ≤ (exp32 f).toNat) : resultMag b m f = if overflowToInf m (sign32 f) then 0x7C00 else 0x7BFF := by
  have hne : (0x7BFF : Nat) ≠ 0x7C00 := by decide
  have ha := units32_overflow he h143
  rw [resultMag, lowerMag_overflow h143, upperMag_overflow h143]
  cases m with
  | rtz => exact selectMag_rtz b _ _ hne
  | rn => rw [selectMag_rn b _ _ hne]; exact selectNearest_overflow _ ha
  | ru => rw [selectMag_ru b _ _ hne]; cases sign32 f <;> rfl
  | rd => exact selectMag_rd b _ _ hne
  | ind => rw [selectMag_ind b _ _ hne]; exact selectNearest_overflow _ ha

theorem resultMag_le (b : Build) (m : Mode) (f : Single) : resultMag b m f ≤ 0x7C00 := by
  have hlo := lowerMag_le (f := f)
  have hup := upperMag_le f
  rcases selectMag_cases b m (sign32 f) (value32 f).units (lowerMag f) (upperMag f) with h | h <;>
    rw [resultMag, h] <;> omega

/-- F2H of a finite source: the sign of the source, the magnitude of the contract, and the flags of R88. -/
theorem f2hUnit_finite (b : Build) (m : Mode) {f : Single} (he : exp32 f ≠ 255#8) : f2hUnit b m f =
    { h := packMag16 (sign32 f) (BitVec.ofNat 15 (resultMag b m f))
      ovf := decide (143 ≤ (exp32 f).toNat ∨ resultMag b m f = 0x7C00)
      inx := cutInexact f } := by
  by_cases h143 : 143 ≤ (exp32 f).toNat
  · have h255 : (exp32 f).toNat ≠ 255 := BitVec.toNat_ne.mp he
    have hlt := (exp32 f).isLt
    rw [f2hUnit_overflow b m h143 (by omega), resultMag_overflow b m he h143]
    simp only [f2hOverflow, cutInexact, h143]
    cases overflowToInf m (sign32 f) <;> rfl
  · have h142 : (exp32 f).toNat ≤ 142 := by omega
    have hbase := denorm32Unit_ebase_le h142 (man32 f)
    rw [f2hUnit_general b m h142, f2hRounded, overflowFlag_roundedMag hbase, roundedMag_eq_ofNat hbase, inexactFlag,
      resultMag_general b m h142, lowerMag_general h142, cutInexact_general h142]
    simp only [h143, false_or]

/-- Settles O19: the brackets are the truncated magnitude and, when the truncation is not exact, the next one. -/
theorem f2hMeetsTheValueContract : Obligations.F2hMeetsTheValueContract :=
  fun m f s he => ⟨lowerMag f, upperMag f, f2hUnit s.build m f, exec_f2hOf_of_unit rfl, lowerMag_isLowerBracket he,
    upperMag_isUpperBracket he, congrArg F2hResponse.h (f2hUnit_finite s.build m he)⟩

end Sys2Proof.Machine

/-! ## Unit F2H at its thresholds: the statements O21, O23 to O27 (41_f2h.md R88, R91 to R95) -/

namespace Sys2Proof.Machine

/-! ### Where the brackets are -/

section
variable {f : Single} (he : exp32 f ≠ 255#8)
include he

theorem lowerMag_lt {r : Nat} (h : (value32 f).units < magUnits r) : lowerMag f < r :=
  magUnits_lt_iff.mp (lt_of_le_of_lt (magUnits_lowerMag_le he) h)

theorem le_lowerMag {r : Nat} (hr : r ≤ 0x7BFF) (h : magUnits r ≤ (value32 f).units) : r ≤ lowerMag f := by
  obtain ⟨-, -, hmax⟩ := lowerMag_isLowerBracket he
  exact hmax r hr h

theorem upperMag_le_of_units_le {r : Nat} (hr : r ≤ 0x7C00) (h : (value32 f).units ≤ magUnits r) :
    upperMag f ≤ r := by
  obtain ⟨-, -, hmin⟩ := upperMag_isUpperBracket he
  exact hmin r hr (.inr h)

theorem units32_le_upperMag : upperMag f = 0x7C00 ∨ (value32 f).units ≤ magUnits (upperMag f) := by
  obtain ⟨-, hle, -⟩ := upperMag_isUpperBracket he
  exact hle

theorem lt_upperMag {r : Nat} (hr : r < 0x7C00) (h : magUnits r < (value32 f).units) : r < upperMag f := by
  obtain hinf | hle := units32_le_upperMag he
  · rwa [hinf]
  · exact magUnits_lt_iff.mp (lt_of_lt_of_le h hle)

/-- Below `2^-24` the truncated magnitude is 0 and the next is the smallest subnormal. -/
theorem lowerMag_of_tiny (h : (value32 f).units < unitsOfSmallest16) : lowerMag f = 0 := by
  have h1 : magUnits 1 = unitsOfSmallest16 := by decide
  have := lowerMag_lt he (h1 ▸ h : (value32 f).units < magUnits 1)
  omega

theorem upperMag_of_tiny (h0 : 0 < (value32 f).units) (h : (value32 f).units < unitsOfSmallest16) : upperMag f = 1 := by
  have hz : magUnits 0 = 0 := by decide
  have hlt := lt_upperMag he (by decide : 0 < 0x7C00) (hz ▸ h0 : magUnits 0 < (value32 f).units)
  have hle := upperMag_le_succ f
  have hlo := lowerMag_of_tiny he h
  omega

theorem lowerMag_of_large (h : unitsOf65504 ≤ (value32 f).units) : lowerMag f = 0x7BFF :=
  Nat.le_antisymm lowerMag_le (le_lowerMag he (Nat.le_refl _) (magUnits_max ▸ h))

theorem upperMag_of_large (h : unitsOf65504 < (value32 f).units) : upperMag f = 0x7C00 :=
  Nat.le_antisymm (upperMag_le f) (lt_upperMag he (by decide) (magUnits_max ▸ h))

theorem overflow_iff_units : 143 ≤ (exp32 f).toNat ↔ unitsOf65536 ≤ (value32 f).units := by
  refine ⟨units32_overflow he, fun h => ?_⟩
  by_contra h143
  have hlt := units32_lt_next (show (exp32 f).toNat ≤ 142 by omega)
  have hle : magUnits (lowerMag f + 1) ≤ magUnits 0x7C00 := magUnits_le_iff.mpr (Nat.succ_le_succ lowerMag_le)
  rw [magUnits_inf] at hle
  omega

end

/-! ### What each mode picks -/

theorem resultMag_exact (b : Build) (m : Mode) {f : Single} (h : cutInexact f = false) :
    resultMag b m f = lowerMag f :=
  selectMag_exact b m _ _ ((lowerMag_eq_upperMag_iff f).mpr h)

theorem resultMag_rtz (b : Build) (f : Single) : resultMag b .rtz f = lowerMag f := by
  by_cases h : lowerMag f = upperMag f
  · exact selectMag_exact b _ _ _ h
  · exact selectMag_rtz b _ _ h

theorem resultMag_ru (b : Build) (f : Single) :
    resultMag b .ru f = if sign32 f then lowerMag f else upperMag f := by
  by_cases h : lowerMag f = upperMag f
  · rw [resultMag, selectMag_exact b _ _ _ h, ← h, ite_self]
  · exact selectMag_ru b _ _ h

theorem resultMag_rd (b : Build) (f : Single) :
    resultMag b .rd f = if sign32 f then upperMag f else lowerMag f := by
  by_cases h : lowerMag f = upperMag f
  · rw [resultMag, selectMag_exact b _ _ _ h, ← h, ite_self]
  · exact selectMag_rd b _ _ h

theorem resultMag_cases (b : Build) (m : Mode) (f : Single) :
    resultMag b m f = lowerMag f ∨ resultMag b m f = upperMag f :=
  selectMag_cases _ _ _ _ _ _

theorem selectNearest_below (ties : Ties) {a lo hi : Nat} (h : 2 * a < magUnits lo + magUnits hi) :
    selectNearest ties a lo hi = lo := if_pos h

theorem selectNearest_above (ties : Ties) {a lo hi : Nat} (h : magUnits lo + magUnits hi < 2 * a) :
    selectNearest ties a lo hi = hi :=
  (if_neg (by omega)).trans (if_pos h)

theorem selectNearest_tie_even {a lo hi : Nat} (h : 2 * a = magUnits lo + magUnits hi) :
    selectNearest .even a lo hi = if lo % 2 = 0 then lo else hi :=
  (if_neg (by omega)).trans (if_neg (by omega))

theorem selectNearest_tie_away {a lo hi : Nat} (h : 2 * a = magUnits lo + magUnits hi) :
    selectNearest .away a lo hi = hi :=
  (if_neg (by omega)).trans (if_neg (by omega))

theorem resultMag_rn_of_ne (b : Build) {f : Single} (h : lowerMag f ≠ upperMag f) :
    resultMag b .rn f = selectNearest b.nearestTies (value32 f).units (lowerMag f) (upperMag f) :=
  selectMag_rn b _ _ h

/-- To nearest goes to infinity from half way between 65504 and `2^16` on, whatever the tie rule: the tie itself is
above an odd magnitude (41_f2h.md R92). -/
theorem resultMag_rn_inf_iff (b : Build) {f : Single} (he : exp32 f ≠ 255#8) :
    resultMag b .rn f = 0x7C00 ↔ unitsOf65520 ≤ (value32 f).units := by
  have hsum : magUnits 0x7BFF + magUnits 0x7C00 = 2 * unitsOf65520 := by decide
  have hmax : unitsOf65504 < unitsOf65520 := by decide
  have hlo := lowerMag_le (f := f)
  constructor
  · intro hr
    by_contra ha
    have hup : upperMag f = 0x7C00 := by
      rcases resultMag_cases b .rn f with h | h <;> omega
    have hlo' : lowerMag f = 0x7BFF := by
      have := upperMag_le_succ f
      omega
    rw [resultMag_rn_of_ne b (by omega), hlo', hup, selectNearest_below _ (by omega)] at hr
    omega
  · intro ha
    have hlo' := lowerMag_of_large he (by omega)
    have hup := upperMag_of_large he (by omega)
    rw [resultMag_rn_of_ne b (by omega), hlo', hup]
    rcases Nat.lt_or_eq_of_le ha with hgt | heq
    · exact selectNearest_above _ (by omega)
    · cases b.nearestTies with
      | even => rw [selectNearest_tie_even (by omega)]; rfl
      | away => exact selectNearest_tie_away (by omega)

/-- Below `2^-24` a source that is not 0 goes to 0 or to the smallest subnormal. -/
theorem resultMag_rn_of_tiny (b : Build) {f : Single} (he : exp32 f ≠ 255#8) (h0 : 0 < (value32 f).units)
    (h : (value32 f).units < unitsOfSmallest16) :
    resultMag b .rn f = selectNearest b.nearestTies (value32 f).units 0 1 := by
  have hlo := lowerMag_of_tiny he h
  have hup := upperMag_of_tiny he h0 h
  rw [resultMag_rn_of_ne b (by omega), hlo, hup]

theorem resultMag_of_zero (b : Build) (m : Mode) {f : Single} (he : exp32 f ≠ 255#8) (h : (value32 f).units = 0) :
    resultMag b m f = 0 := by
  have hup := upperMag_le_of_units_le he (Nat.zero_le _) (show (value32 f).units ≤ magUnits 0 by omega)
  have hlo := lowerMag_le_upperMag f
  rcases resultMag_cases b m f with h | h <;> omega

/-- The indeterminate mode is to nearest with its own tie rule (41_f2h.md R95). -/
theorem f2hUnit_ind (b : Build) (f : Single) :
    f2hUnit b .ind f = f2hUnit { b with nearestTies := b.indTies } .rn f := rfl

/-! ### Sources that are no number -/

theorem value32_special {f : Single} (he : exp32 f = 255#8) : (value32 f).isFinite = false := by
  by_cases hm : man32 f = 0#23 <;> simp [value32, he, hm, Ext.isFinite]

/-- A NaN or an infinity gets the same response in every mode, with no flag (41_f2h.md R83, R84). -/
theorem f2hUnit_special (b b' : Build) (m m' : Mode) {f : Single} (he : exp32 f = 255#8) :
    f2hUnit b m f = f2hUnit b' m' f ∧ (f2hUnit b m f).ovf = false ∧ (f2hUnit b m f).inx = false := by
  by_cases hm : man32 f = 0#23
  · rw [f2hUnit_inf b m he hm, f2hUnit_inf b' m' he hm]
    exact ⟨rfl, rfl, rfl⟩
  · rw [f2hUnit_nan b m he hm, f2hUnit_nan b' m' he hm]
    exact ⟨rfl, rfl, rfl⟩

/-! ### What the result stands for -/

theorem mag16_result (s : Bool) {n : Nat} (hn : n ≤ 0x7C00) :
    (mag16 (packMag16 s (BitVec.ofNat 15 n))).toNat = n := by
  rw [mag16_packMag16, BitVec.toNat_ofNat]
  omega

theorem value16_result_finite (s : Bool) {n : Nat} (hn : n < 0x7C00) :
    value16 (packMag16 s (BitVec.ofNat 15 n)) = .fin s (magUnits n) := by
  have hmag := mag16_result s (Nat.le_of_lt hn)
  rw [value16_of_finite (by omega), hmag, sign16_packMag16]

theorem value16_result_inf (s : Bool) : value16 (packMag16 s (BitVec.ofNat 15 0x7C00)) = .inf s := by
  rw [value16_of_infinite (mag16_result s (Nat.le_refl _)), sign16_packMag16]

theorem class16_result_inf_iff (s : Bool) {n : Nat} (hn : n ≤ 0x7C00) :
    class16 (packMag16 s (BitVec.ofNat 15 n)) = .infinite ↔ n = 0x7C00 := by
  rw [class16_infinite_iff, mag16_result s hn]

theorem magUnits_lowerMag_of_exact {f : Single} (he : exp32 f ≠ 255#8) (h : cutInexact f = false) :
    magUnits (lowerMag f) = (value32 f).units := by
  have hle := magUnits_lowerMag_le he
  have hnot := mt (cutInexact_iff he).mpr (Bool.eq_false_iff.mp h)
  omega

/-- The result has the value of the source exactly when nothing was cut off. -/
theorem value16_result_eq_iff (b : Build) (m : Mode) {f : Single} (he : exp32 f ≠ 255#8) :
    value16 (packMag16 (sign32 f) (BitVec.ofNat 15 (resultMag b m f))) = value32 f ↔ cutInexact f = false := by
  rw [value32_eq_fin he]
  constructor
  · intro hv
    rcases Nat.lt_or_eq_of_le (resultMag_le b m f) with hn | hn
    · rw [value16_result_finite _ hn] at hv
      injection hv with _ hmag
      have h1 := le_lowerMag he (by omega) (Nat.le_of_eq hmag)
      have h2 := upperMag_le_of_units_le he (Nat.le_of_lt hn) (Nat.le_of_eq hmag.symm)
      have h3 := lowerMag_le_upperMag f
      exact (lowerMag_eq_upperMag_iff f).mp (by omega)
    · rw [hn, value16_result_inf] at hv
      cases hv
  · intro hc
    rw [resultMag_exact b m hc, value16_result_finite _ (Nat.lt_succ_of_le lowerMag_le),
      magUnits_lowerMag_of_exact he hc]

theorem cutInexact_of_inf {b : Build} {m : Mode} {f : Single} (h : resultMag b m f = 0x7C00) : cutInexact f = true := by
  by_contra hc
  have hlo := lowerMag_le (f := f)
  rw [resultMag_exact b m (Bool.eq_false_iff.mpr hc)] at h
  omega

theorem cutInexact_of_overflow {f : Single} (h143 : 143 ≤ (exp32 f).toNat) : cutInexact f = true := by
  simp [cutInexact, h143]

/-! ### The statements -/

/-- Settles O21: the flags of a NaN or an infinity are 0; those of a finite source by its brackets. -/
theorem f2hFlagsSayWhatHappened : Obligations.F2hFlagsSayWhatHappened := by
  intro m f s
  refine ⟨f2hUnit s.build m f, exec_f2hOf_of_unit rfl, ?_⟩
  by_cases he : exp32 f = 255#8
  · obtain ⟨-, hovf, hinx⟩ := f2hUnit_special s.build s.build m m he
    simp [hovf, hinx, value32_special he]
  · have hfin : (value32 f).isFinite = true := by rw [value32_eq_fin he]; rfl
    rw [f2hUnit_finite s.build m he]
    refine ⟨?_, ?_, fun h => ?_⟩
    · rw [ne_eq, value16_result_eq_iff s.build m he, hfin, Bool.not_eq_false, eq_self, true_and]
    · rw [class16_result_inf_iff _ (resultMag_le _ _ _), hfin, decide_eq_true_iff, overflow_iff_units he, eq_self,
        true_and]
    · exact (of_decide_eq_true h).elim cutInexact_of_overflow cutInexact_of_inf

/-- Settles O23: toward zero picks the lower bracket. -/
theorem f2hRtzTruncates : Obligations.F2hRtzTruncates := by
  intro f s he
  refine ⟨f2hUnit s.build .rtz f, exec_f2hOf_of_unit (m := .rtz) rfl, ?_⟩
  have hlo := lowerMag_le (f := f)
  have hv := value16_result_finite (sign32 f) (Nat.lt_succ_of_le hlo)
  rw [f2hUnit_finite s.build .rtz he, resultMag_rtz, hv]
  refine ⟨rfl, magUnits_lowerMag_le he, ?_, fun h => ?_, fun h => ?_⟩
  · rw [decide_eq_true_iff]
    omega
  · rw [lowerMag_of_tiny he h]
  · rw [lowerMag_of_large he h]

/-- Settles O24: infinity by `resultMag_rn_inf_iff`; below `2^-24` the brackets are 0 and 1, and their middle is
`2^-25`. -/
theorem f2hRnCorners : Obligations.F2hRnCorners := by
  intro f s he
  refine ⟨f2hUnit s.build .rn f, exec_f2hOf_of_unit (m := .rn) rfl, ?_⟩
  have hinf := resultMag_rn_inf_iff s.build he
  have hsmall : unitsOfSmallest16 = 2 * 2 ^ 124 := by decide
  have hmid : magUnits 0 + magUnits 1 = 2 * 2 ^ 124 := by decide
  have hpos : 0 < 2 ^ 124 := Nat.two_pow_pos _
  rw [f2hUnit_finite s.build .rn he]
  refine ⟨?_, ?_, fun h => ?_, fun h h' => ?_, fun h => ?_⟩
  · rw [class16_result_inf_iff _ (resultMag_le _ _ _), hinf]
  · have h16 : unitsOf65520 ≤ unitsOf65536 := by decide
    rw [decide_eq_true_iff, hinf, overflow_iff_units he]
    exact or_iff_right_of_imp h16.trans
  · rw [resultMag_rn_of_tiny s.build he (by omega) (by omega)]
    cases s.build.nearestTies with
    | even => rw [selectNearest_tie_even (by omega)]; rfl
    | away => rw [selectNearest_tie_away (by omega)]
  · rw [resultMag_rn_of_tiny s.build he (by omega) (by omega), selectNearest_above _ (by omega)]
  · rcases Nat.eq_zero_or_pos (value32 f).units with h0 | h0
    · rw [resultMag_of_zero _ _ he h0]
    · rw [resultMag_rn_of_tiny s.build he h0 (by omega), selectNearest_below _ (by omega)]

/-- Settles O25: toward positive infinity picks the upper bracket of a positive source and the lower of a negative. -/
theorem f2hRuCorners : Obligations.F2hRuCorners := by
  intro f s he
  refine ⟨f2hUnit s.build .ru f, exec_f2hOf_of_unit (m := .ru) rfl, ?_⟩
  have hmax : unitsOf65504 ≤ unitsOf65536 := by decide
  rw [f2hUnit_finite s.build .ru he, resultMag_ru]
  refine ⟨fun hs h0 h => ?_, fun hs h => ?_, fun hs h => ?_, fun hs h => ?_⟩
  · rw [hs, if_neg Bool.false_ne_true, upperMag_of_tiny he h0 h]
    rfl
  · rw [hs, if_pos rfl, lowerMag_of_tiny he h]
    rfl
  · rw [hs, if_neg Bool.false_ne_true, upperMag_of_large he h]
    exact ⟨rfl, decide_eq_true (.inr rfl)⟩
  · rw [hs, if_pos rfl, lowerMag_of_large he (hmax.trans h)]
    exact ⟨rfl, decide_eq_true (.inl ((overflow_iff_units he).mpr h))⟩

/-- Settles O26: toward negative infinity picks the lower bracket of a positive source and the upper of a negative. -/
theorem f2hRdCorners : Obligations.F2hRdCorners := by
  intro f s he
  refine ⟨f2hUnit s.build .rd f, exec_f2hOf_of_unit (m := .rd) rfl, ?_⟩
  have hmax : unitsOf65504 ≤ unitsOf65536 := by decide
  rw [f2hUnit_finite s.build .rd he, resultMag_rd]
  refine ⟨fun hs h0 h => ?_, fun hs h => ?_, fun hs h => ?_, fun hs h => ?_⟩
  · rw [hs, if_pos rfl, upperMag_of_tiny he h0 h]
    rfl
  · rw [hs, if_neg Bool.false_ne_true, lowerMag_of_tiny he h]
    rfl
  · rw [hs, if_neg Bool.false_ne_true, lowerMag_of_large he (hmax.trans h)]
    exact ⟨rfl, decide_eq_true (.inl ((overflow_iff_units he).mpr h))⟩
  · rw [hs, if_pos rfl, upperMag_of_large he h]
    exact ⟨rfl, decide_eq_true (.inr rfl)⟩

/-- The two modes to nearest set the same flags, whatever their tie rules: the tie at 65520 goes up under both. -/
theorem f2hUnit_ind_flags (b : Build) (f : Single) :
    (f2hUnit b .ind f).ovf = (f2hUnit b .rn f).ovf ∧ (f2hUnit b .ind f).inx = (f2hUnit b .rn f).inx := by
  rw [f2hUnit_ind]
  by_cases he : exp32 f = 255#8
  · obtain ⟨h, -, -⟩ := f2hUnit_special { b with nearestTies := b.indTies } b .rn .rn he
    rw [h]
    exact ⟨rfl, rfl⟩
  · rw [f2hUnit_finite _ .rn he, f2hUnit_finite b .rn he]
    refine ⟨?_, rfl⟩
    simp only [resultMag_rn_inf_iff _ he]

/-- Off the ties the two modes to nearest give the same response. -/
theorem f2hUnit_ind_off_tie (b : Build) {f : Single} (h142 : (exp32 f).toNat ≤ 142)
    (h : ¬ ((denorm32Unit (exp32 f) (man32 f)).g = true ∧ (denorm32Unit (exp32 f) (man32 f)).t = false)) :
    f2hUnit b .ind f = f2hUnit b .rn f := by
  rw [f2hUnit_general b .ind h142, f2hUnit_general b .rn h142]
  simp only [f2hRounded, rndUnit, incNearest_off_tie b.indTies b.nearestTies _ h]

/-- From `E8 = 143` on no tie is left, and the two modes to nearest give the same response. -/
theorem f2hUnit_ind_large (b : Build) {f : Single} (h143 : 143 ≤ (exp32 f).toNat) :
    f2hUnit b .ind f = f2hUnit b .rn f := by
  by_cases he : exp32 f = 255#8
  · exact (f2hUnit_special b b .ind .rn he).1
  · have hne : (exp32 f).toNat ≠ 255 := BitVec.toNat_ne.mp he
    have hlt := (exp32 f).isLt
    rw [f2hUnit_overflow b .ind h143 (by omega), f2hUnit_overflow b .rn h143 (by omega)]
    rfl

/-- Settles O27: the response of IND is RN's under `IND_TIES`, and the tie rule reaches the data of a tie alone. -/
theorem f2hIndDiffersFromRnOnTiesOnly : Obligations.F2hIndDiffersFromRnOnTiesOnly := by
  intro f s
  obtain ⟨hovf, hinx⟩ := f2hUnit_ind_flags s.build f
  exact ⟨f2hUnit s.build .ind f, f2hUnit s.build .rn f, exec_f2hOf_of_unit (m := .ind) rfl,
    exec_f2hOf_of_unit (m := .rn) rfl,
    exec_f2hOf_of_unit (m := .rn) (s := { s with build := { s.build with nearestTies := s.build.indTies } }) rfl,
    hovf, hinx, f2hUnit_ind_off_tie s.build, f2hUnit_ind_large s.build⟩

end Sys2Proof.Machine

/-! ## Laws of F2H: the statements O14, O28 to O33 (40_h2f.md R77, 41_f2h.md R96, 43_subnormal_handler.md R123) -/

namespace Sys2Proof.Machine

/-! ### The round trip (R96 (a)) and what follows from it for H2F -/

theorem exp32_ne_ones_of_finite {f : Single} (h : (value32 f).isFinite = true) : exp32 f ≠ 255#8 := by
  intro he
  rw [value32_special he] at h
  cases h

theorem nanPayload_leftJustify {m : BitVec 10} (hm : m ≠ 0#10) : nanPayload (leftJustify m) = m := by
  rw [nanPayload, man16_leftJustify, if_neg hm]

/-- A finite half comes back: it is both brackets of the source it widens to. -/
theorem f2hUnit_h2fUnit_finite (b : Build) (m : Mode) {h : Half} (hlt : (mag16 h).toNat < 0x7C00) :
    f2hUnit b m (h2fUnit h) = { h := h, ovf := false, inx := false } := by
  have hn : class16 h ≠ .nan := by
    rw [ne_eq, class16_nan_iff]
    omega
  have hv : value32 (h2fUnit h) = .fin (sign16 h) (magUnits (mag16 h).toNat) := by
    rw [value32_h2fUnit hn, value16_of_finite hlt]
  have he : exp32 (h2fUnit h) ≠ 255#8 := exp32_ne_ones_of_finite (by rw [hv]; rfl)
  have ha : (value32 (h2fUnit h)).units = magUnits (mag16 h).toNat := by rw [hv]; rfl
  have hle := le_lowerMag he (Nat.le_of_lt_succ hlt) (Nat.le_of_eq ha.symm)
  have hup := upperMag_le_of_units_le he (Nat.le_of_lt hlt) (Nat.le_of_eq ha)
  have hlu := lowerMag_le_upperMag (h2fUnit h)
  have hc : cutInexact (h2fUnit h) = false := (lowerMag_eq_upperMag_iff _).mp (by omega)
  have h142 : ¬ 143 ≤ (exp32 (h2fUnit h)).toNat := by
    intro h143
    rw [cutInexact_of_overflow h143] at hc
    cases hc
  have hr : resultMag b m (h2fUnit h) = (mag16 h).toNat := by
    rw [resultMag_exact b m hc]
    omega
  rw [f2hUnit_finite b m he, hr, hc, sign32_h2fUnit, BitVec.ofNat_toNat, BitVec.setWidth_eq, packMag16_fields,
    decide_eq_false (by omega)]

/-- An infinity or a NaN comes back: its payload is not zero and is kept. -/
theorem f2hUnit_h2fUnit_special (b : Build) (m : Mode) {h : Half} (he : exp16 h = 31#5) :
    f2hUnit b m (h2fUnit h) = { h := h, ovf := false, inx := false } := by
  have he32 : exp32 (h2fSpecial (sign16 h) (man16 h)) = 255#8 := exp32_pack32 _ _ _
  have hs32 : sign32 (h2fSpecial (sign16 h) (man16 h)) = sign16 h := sign32_pack32 _ _ _
  have hm32 : man32 (h2fSpecial (sign16 h) (man16 h)) = leftJustify (man16 h) := man32_pack32 _ _ _
  have hfields := pack16_fields h
  rw [h2fUnit_special he]
  rw [he] at hfields
  by_cases hm : man16 h = 0#10
  · rw [f2hUnit_inf b m he32 (hm32.trans (leftJustify_eq_zero.mpr hm)), f2hInf, hs32, ← hm, hfields]
  · rw [f2hUnit_nan b m he32 (hm32 ▸ mt leftJustify_eq_zero.mp hm), f2hNan, hs32, hm32, nanPayload_leftJustify hm,
      hfields]

theorem f2hUnit_h2fUnit (b : Build) (m : Mode) (h : Half) :
    f2hUnit b m (h2fUnit h) = { h := h, ovf := false, inx := false } := by
  by_cases he : exp16 h = 31#5
  · exact f2hUnit_h2fUnit_special b m he
  · rw [exp16_eq_ones_iff] at he
    exact f2hUnit_h2fUnit_finite b m (by omega)

/-- Settles O28: `f2hUnit_h2fUnit`. -/
theorem roundTripGivesTheHalfBack : Obligations.RoundTripGivesTheHalfBack :=
  fun m h s => ⟨h2fUnit h, exec_f2hOf_of_unit (f2hUnit_h2fUnit s.build m h)⟩

/-- H2F has a left inverse. -/
theorem h2fUnit_injective : Function.Injective h2fUnit := by
  intro h h' heq
  have hback := f2hUnit_h2fUnit { nearestTies := .even, indTies := .even, latency := 0 } .rtz h
  rw [heq, f2hUnit_h2fUnit] at hback
  injection hback with hh
  exact hh.symm

/-- Settles O14: F2H takes the answer back to the half. -/
theorem h2fIsInjective : Obligations.H2fIsInjective := by
  intro h h' s s' t t' ht ht' ha
  rw [exec_h2f] at ht ht'
  cases ht
  cases ht'
  exact h2fUnit_injective (Option.some.inj ha)

/-! ### Flipping the sign (R96 (b)) -/

theorem sign32_flip (f : Single) : sign32 (f ^^^ 0x80000000#32) = !sign32 f := by
  simp [sign32]

theorem exp32_flip (f : Single) : exp32 (f ^^^ 0x80000000#32) = exp32 f := by
  simp [exp32, BitVec.extractLsb'_xor]

theorem man32_flip (f : Single) : man32 (f ^^^ 0x80000000#32) = man32 f := by
  simp [man32, BitVec.extractLsb'_xor]

theorem packMag16_not (s : Bool) (mag : BitVec 15) : packMag16 (!s) mag = packMag16 s mag ^^^ 0x8000#16 := by
  apply BitVec.eq_of_getLsbD_eq
  intro i hi
  have hbit : (0x8000#16).getLsbD i = decide (i = 15) := by
    revert i
    decide
  rw [BitVec.getLsbD_xor, packMag16_getLsbD, packMag16_getLsbD, hbit]
  by_cases h15 : i = 15
  · subst h15
    simp
  · simp [h15]

theorem overflowToInf_mirror (m : Mode) (s : Bool) : overflowToInf m (!s) = overflowToInf (mirrorMode m) s := by
  cases m <;> cases s <;> rfl

theorem rndUnit_mirror (b : Build) (m : Mode) (s l g t : Bool) :
    rndUnit b m (!s) l g t = rndUnit b (mirrorMode m) s l g t := by
  cases m <;> cases s <;> rfl

/-- The response with the sign of its data flipped. -/
def F2hResponse.flip (r : F2hResponse) : F2hResponse := { h := r.h ^^^ 0x8000#16, ovf := r.ovf, inx := r.inx }

/-- In each case of R81 the sign reaches the packing and the choice of direction, and nothing else. -/
theorem f2hUnit_flip (b : Build) (m : Mode) (f : Single) :
    f2hUnit b m (f ^^^ 0x80000000#32) = (f2hUnit b (mirrorMode m) f).flip := by
  unfold f2hUnit
  rw [sign32_flip, exp32_flip, man32_flip]
  split
  · simp only [f2hNan, F2hResponse.flip, pack16_eq_packMag16, packMag16_not]
  · split
    · simp only [f2hInf, F2hResponse.flip, pack16_eq_packMag16, packMag16_not]
    · split
      · simp only [f2hOverflow, F2hResponse.flip, packMag16_not, overflowToInf_mirror]
      · simp only [f2hRounded, F2hResponse.flip, packMag16_not, rndUnit_mirror]

/-- Settles O29: `f2hUnit_flip`. -/
theorem f2hSignSymmetry : Obligations.F2hSignSymmetry :=
  fun m f s => ⟨f2hUnit s.build (mirrorMode m) f, exec_f2hOf_of_unit rfl,
    exec_f2hOf_of_unit (f2hUnit_flip s.build m f)⟩

/-! ### Exact sources (R96 (d)) -/

/-- With `inx` 0 the response does not depend on the mode or the parameters. -/
theorem f2hUnit_exact (b b' : Build) (m m' : Mode) {f : Single} (h : (f2hUnit b m f).inx = false) :
    f2hUnit b m f = f2hUnit b' m' f := by
  by_cases he : exp32 f = 255#8
  · exact (f2hUnit_special b b' m m' he).1
  · rw [f2hUnit_finite b m he] at h ⊢
    rw [f2hUnit_finite b' m' he, resultMag_exact b m h, resultMag_exact b' m' h]

/-- Settles O31: `f2hUnit_exact`, and `f2hUnit_ind` for equal tie parameters. -/
theorem f2hExactSourcesAgreeInAllModes : Obligations.F2hExactSourcesAgreeInAllModes := by
  intro m m' f s
  refine ⟨f2hUnit s.build m f, f2hUnit s.build m' f, exec_f2hOf_of_unit rfl, exec_f2hOf_of_unit rfl,
    f2hUnit_exact s.build s.build m m', fun hm hm' hties => ?_⟩
  rw [hm, hm', f2hUnit_ind, ← hties]
  rfl

/-! ### The order of the results (R96 (c), (e)) -/

theorem value16_result_of_lower {n a : Nat} (hn : n < 0x7C00) (h : magUnits n ≤ a) :
    Ext.le (value16 (packMag16 false (BitVec.ofNat 15 n))) (.fin false a) = true ∧
      Ext.le (.fin true a) (value16 (packMag16 true (BitVec.ofNat 15 n))) = true := by
  simpa [value16_result_finite, hn, Ext.le, signedUnits] using h

theorem value16_result_of_upper {n a : Nat} (hn : n ≤ 0x7C00) (h : n = 0x7C00 ∨ a ≤ magUnits n) :
    Ext.le (.fin false a) (value16 (packMag16 false (BitVec.ofNat 15 n))) = true ∧
      Ext.le (value16 (packMag16 true (BitVec.ofNat 15 n))) (.fin true a) = true := by
  rcases Nat.lt_or_eq_of_le hn with hlt | rfl
  · have hle : a ≤ magUnits n := h.resolve_left (Nat.ne_of_lt hlt)
    simpa [value16_result_finite, hlt, Ext.le, signedUnits] using hle
  · rw [value16_result_inf, value16_result_inf]
    exact ⟨rfl, rfl⟩

/-- Results of one sign are ordered as their magnitudes, in reverse when they are negative. -/
theorem value16_result_mono {n n' : Nat} (hn' : n' ≤ 0x7C00) (h : n ≤ n') :
    Ext.le (value16 (packMag16 false (BitVec.ofNat 15 n))) (value16 (packMag16 false (BitVec.ofNat 15 n'))) = true ∧
      Ext.le (value16 (packMag16 true (BitVec.ofNat 15 n'))) (value16 (packMag16 true (BitVec.ofNat 15 n))) = true := by
  rcases Nat.lt_or_eq_of_le (h.trans hn') with hlt | rfl
  · rw [value16_result_finite false hlt, value16_result_finite true hlt]
    exact value16_result_of_upper hn' (.inr (magUnits_le_iff.mpr h))
  · obtain rfl : n' = 0x7C00 := Nat.le_antisymm hn' h
    rw [value16_result_inf, value16_result_inf]
    exact ⟨rfl, rfl⟩

/-- A negative result is not above a positive one. -/
theorem value16_result_neg_le_pos {n n' : Nat} (hn : n ≤ 0x7C00) (hn' : n' ≤ 0x7C00) :
    Ext.le (value16 (packMag16 true (BitVec.ofNat 15 n))) (value16 (packMag16 false (BitVec.ofNat 15 n'))) = true := by
  rcases Nat.lt_or_eq_of_le hn' with hlt' | rfl
  · rcases Nat.lt_or_eq_of_le hn with hlt | rfl
    · rw [value16_result_finite true hlt, value16_result_finite false hlt']
      simp [Ext.le, signedUnits]
    · rw [value16_result_inf, value16_result_finite false hlt']
      rfl
  · rw [value16_result_inf]
    rcases Nat.lt_or_eq_of_le hn with hlt | rfl
    · rw [value16_result_finite true hlt]
      rfl
    · rw [value16_result_inf]
      rfl

/-- Settles O30: RD and RU pick the lower and the upper bracket, which one by the sign; the other modes pick one of the
two. -/
theorem f2hDirectedModesEnclose : Obligations.F2hDirectedModesEnclose := by
  intro f s he
  refine ⟨f2hUnit s.build .rd f, f2hUnit s.build .ru f, f2hUnit s.build .rtz f, f2hUnit s.build .rn f,
    exec_f2hOf_of_unit (m := .rd) rfl, exec_f2hOf_of_unit (m := .ru) rfl, exec_f2hOf_of_unit (m := .rtz) rfl,
    exec_f2hOf_of_unit (m := .rn) rfl, ?_⟩
  have hlt : lowerMag f < 0x7C00 := Nat.lt_succ_of_le lowerMag_le
  obtain ⟨lowPos, lowNeg⟩ := value16_result_of_lower hlt (magUnits_lowerMag_le he)
  obtain ⟨uppPos, uppNeg⟩ := value16_result_of_upper (upperMag_le f) (units32_le_upperMag he)
  rw [f2hUnit_finite s.build .rd he, f2hUnit_finite s.build .ru he, f2hUnit_finite s.build .rtz he,
    f2hUnit_finite s.build .rn he, resultMag_rd, resultMag_ru, resultMag_rtz]
  have hv := value32_eq_fin he
  have htz : Ext.le (value16 (packMag16 (sign32 f) (BitVec.ofNat 15 (lowerMag f)))).abs (value32 f).abs = true := by
    rw [value16_result_finite _ hlt, hv]
    exact decide_eq_true (Int.ofNat_le.mpr (magUnits_lowerMag_le he))
  have hrn := resultMag_cases s.build .rn f
  cases hs : sign32 f with
  | false =>
    rw [hs] at hv htz
    rw [← hv] at lowPos uppPos
    refine ⟨lowPos, uppPos, htz, ?_⟩
    rcases hrn with h | h <;> simp [h]
  | true =>
    rw [hs] at hv htz
    rw [← hv] at lowNeg uppNeg
    refine ⟨uppNeg, lowNeg, htz, ?_⟩
    rcases hrn with h | h <;> simp [h]

theorem selectNearest_mono (ties : Ties) {a a' lo hi : Nat} (ha : a ≤ a') (h : lo ≤ hi) :
    selectNearest ties a lo hi ≤ selectNearest ties a' lo hi := by
  have hcases := selectNearest_cases ties a lo hi
  have hcases' := selectNearest_cases ties a' lo hi
  rcases Nat.lt_trichotomy (2 * a') (magUnits lo + magUnits hi) with hlt | heq | hgt
  · rw [selectNearest_below ties hlt, selectNearest_below ties (by omega)]
  · rcases Nat.eq_or_lt_of_le ha with rfl | hlt
    · exact Nat.le_refl _
    · rw [selectNearest_below ties (by omega : 2 * a < _)]
      omega
  · rw [selectNearest_above ties hgt]
    omega

/-- Between the same brackets a larger source goes no lower. -/
theorem selectMag_mono (b : Build) (m : Mode) (s : Bool) {a a' lo hi : Nat} (ha : a ≤ a') (h : lo < hi) :
    selectMag b m s a lo hi ≤ selectMag b m s a' lo hi := by
  have hne := Nat.ne_of_lt h
  have hle := Nat.le_of_lt h
  cases m with
  | rtz => rw [selectMag_rtz b s a hne, selectMag_rtz b s a' hne]
  | rn => rw [selectMag_rn b s a hne, selectMag_rn b s a' hne]; exact selectNearest_mono _ ha hle
  | ru => rw [selectMag_ru b s a hne, selectMag_ru b s a' hne]
  | rd => rw [selectMag_rd b s a hne, selectMag_rd b s a' hne]
  | ind => rw [selectMag_ind b s a hne, selectMag_ind b s a' hne]; exact selectNearest_mono _ ha hle

/-- The brackets move up with the source; sources between different brackets do not meet, and the rest is
`selectMag_mono`. -/
theorem resultMag_mono (b : Build) (m : Mode) {f f' : Single} (he : exp32 f ≠ 255#8) (he' : exp32 f' ≠ 255#8)
    (hs : sign32 f = sign32 f') (ha : (value32 f).units ≤ (value32 f').units) :
    resultMag b m f ≤ resultMag b m f' := by
  have hlo : lowerMag f ≤ lowerMag f' := le_lowerMag he' lowerMag_le ((magUnits_lowerMag_le he).trans ha)
  have hup : upperMag f ≤ upperMag f' := by
    obtain hinf | hle := units32_le_upperMag he'
    · rw [hinf]
      exact upperMag_le f
    · exact upperMag_le_of_units_le he (upperMag_le f') (ha.trans hle)
  have hgap := upperMag_le_succ f
  have hgap' := upperMag_le_succ f'
  have hle := lowerMag_le_upperMag f
  have hle' := lowerMag_le_upperMag f'
  have hcases := resultMag_cases b m f
  have hcases' := resultMag_cases b m f'
  by_cases hapart : upperMag f ≤ lowerMag f'
  · omega
  · have hlo' : lowerMag f' = lowerMag f := by omega
    have hup' : upperMag f' = upperMag f := by omega
    rw [resultMag, resultMag, hlo', hup', hs]
    exact selectMag_mono b m _ ha (by omega)

/-- Settles O32: `resultMag_mono` for sources of one sign; between the signs lies the zero, which stays a zero. -/
theorem f2hIsMonotone : Obligations.F2hIsMonotone := by
  intro m f f' s he he' hle
  refine ⟨f2hUnit s.build m f, f2hUnit s.build m f', exec_f2hOf_of_unit rfl, exec_f2hOf_of_unit rfl, ?_⟩
  rw [f2hUnit_finite s.build m he, f2hUnit_finite s.build m he']
  rw [value32_eq_fin he, value32_eq_fin he'] at hle
  have hmono := resultMag_mono s.build m he he'
  have hmono' := resultMag_mono s.build m he' he
  have hn := resultMag_le s.build m f
  have hn' := resultMag_le s.build m f'
  cases hs : sign32 f <;> cases hs' : sign32 f' <;> rw [hs, hs'] at hle
  case false.false =>
    have ha : (value32 f).units ≤ (value32 f').units := by simpa [Ext.le, signedUnits] using hle
    exact (value16_result_mono hn' (hmono (hs.trans hs'.symm) ha)).1
  case true.true =>
    have ha : (value32 f').units ≤ (value32 f).units := by simpa [Ext.le, signedUnits] using hle
    exact (value16_result_mono hn (hmono' (hs'.trans hs.symm) ha)).2
  case true.false => exact value16_result_neg_le_pos hn hn'
  case false.true =>
    have hsigned : ((value32 f).units : Int) ≤ -((value32 f').units : Int) := of_decide_eq_true hle
    have ha : (value32 f).units = 0 ∧ (value32 f').units = 0 := by omega
    have hzero : Ext.le (value16 (packMag16 false 0#15)) (value16 (packMag16 true 0#15)) = true := by decide
    rw [resultMag_of_zero _ _ he ha.1, resultMag_of_zero _ _ he' ha.2]
    exact hzero

/-! ### The boundary of the subnormal results (R123) -/

/-- Settles O33: the magnitude is the sum, since the base exponent is 0 there; above, the kept bits alone reach
0x400. -/
theorem f2hSubnormalResultBoundary : Obligations.F2hSubnormalResultBoundary := by
  intro m f s h142
  have he := exp32_ne_ones (show (exp32 f).toNat ≤ 254 by omega)
  have hresult := resultMag_general s.build m h142
  have hmag := mag16_result (sign32 f) (resultMag_le s.build m f)
  have hbase := denorm32Unit_ebase h142 (man32 f)
  have hkept := fun h113 : 113 ≤ (exp32 f).toNat => denorm32Unit_kept_normal h113 (man32 f)
  have hone : ∀ inc : Bool, (if inc then 1 else 0) = inc.toNat := by decide
  rw [lowerMag_general h142] at hresult
  refine ⟨f2hUnit s.build m f, _, _, exec_f2hOf_of_unit rfl, rfl, rfl, ?_, fun h112 hsum => ?_⟩
  · rw [class16_zero_or_subnormal_iff, f2hUnit_finite s.build m he, hmag, hresult, hone]
    omega
  · rw [hone] at hsum
    rw [f2hUnit_finite s.build m he, show resultMag s.build m f = 0x400 by omega]

end Sys2Proof.Machine

/-! ## The responses a channel holds: the statements O47 and O48 (40_h2f.md R76, 41_f2h.md R88,
70_reset_and_hazards.md R152) -/

namespace Sys2Proof.Machine

/-- A channel whose responses satisfy `p` keeps that through a cycle in which it answers such a response or none. -/
theorem cycle_allResponses {α : Type} {p : α → Bool} (rst : Bool) {a : Option α} {c : Channel α}
    (ha : a.all p = true) (hc : c.allResponses p = true) : (c.cycle rst a).allResponses p = true := by
  simp only [Channel.allResponses, Bool.and_eq_true, List.all_eq_true] at hc ⊢
  obtain ⟨⟨-, hst⟩, -⟩ := hc
  have hqueue : ∀ o ∈ a :: c.stages, o.all p = true := List.forall_mem_cons.mpr ⟨ha, hst⟩
  cases rst with
  | false =>
    rw [cycle_run]
    refine ⟨⟨ha, fun o ho => hqueue o (List.mem_of_mem_dropLast ho)⟩, hqueue _ ?_⟩
    exact List.getLastD_mem_cons
  | true =>
    rw [cycle_reset]
    refine ⟨⟨rfl, fun o ho => ?_⟩, rfl⟩
    rw [List.eq_of_mem_replicate ho]
    rfl

theorem afterReset_allResponses {α : Type} (p : α → Bool) (n : Nat) :
    (Channel.afterReset α n).allResponses p = true := by
  simp [Channel.allResponses, Channel.afterReset]

theorem h2fDue_image (c : Cycle) : (h2fDue c).all h2fImage = true := by
  unfold h2fDue
  split
  · exact h2fImage_h2fUnit c.h2fDataI
  · rfl

/-! ### The flags of F2H fit its data -/

theorem f2hSound_of {r : F2hResponse}
    (hovf : r.ovf = true → r.inx = true ∧ ((mag16 r.h).toNat = 0x7C00 ∨ (mag16 r.h).toNat = 0x7BFF))
    (hnan : class16 r.h = .nan → r.ovf = false ∧ r.inx = false) : f2hSound r = true := by
  simp only [f2hSound, Bool.and_eq_true, Bool.or_eq_true, Bool.not_eq_true', beq_iff_eq, beq_eq_false_iff_ne]
  constructor
  · cases ho : r.ovf with
    | false => exact .inl rfl
    | true =>
      obtain ⟨hinx, hmag⟩ := hovf ho
      exact .inr ⟨hinx, hmag.imp BitVec.eq_of_toNat_eq BitVec.eq_of_toNat_eq⟩
  · by_cases hn : class16 r.h = .nan
    · exact .inr (hnan hn)
    · exact .inl hn

/-- Finite sources: an overflow gives the infinity or the largest finite magnitude and comes with `inx`, and no result
is a NaN. The rest carry no flag. -/
theorem f2hSound_f2hUnit (b : Build) (m : Mode) (f : Single) : f2hSound (f2hUnit b m f) = true := by
  by_cases he : exp32 f = 255#8
  · obtain ⟨-, hovf, hinx⟩ := f2hUnit_special b b m m he
    exact f2hSound_of (by simp [hovf]) fun _ => ⟨hovf, hinx⟩
  · have hle := resultMag_le b m f
    have hmag := mag16_result (sign32 f) hle
    rw [f2hUnit_finite b m he]
    refine f2hSound_of (fun h => ?_) (fun h => ?_)
    · rw [hmag]
      rcases of_decide_eq_true h with h143 | hinf
      · refine ⟨cutInexact_of_overflow h143, ?_⟩
        rw [resultMag_overflow b m he h143]
        exact ite_eq_or_eq _ _ _
      · exact ⟨cutInexact_of_inf hinf, .inl hinf⟩
    · rw [class16_nan_iff, hmag] at h
      omega

/-- With a legal code whatever F2H answers is sound. -/
theorem f2hDue_sound {c : Cycle} (h : c.f2hLegal = true) (b : Build) (n : Nat) :
    (f2hDue b n c).all f2hSound = true := by
  cases hv : c.f2hValidI with
  | false => rw [f2hDue_of_invalid hv]; rfl
  | true =>
    have hlegal : (Mode.ofCode c.f2hRmI).isSome = true := by simpa [Cycle.f2hLegal, hv] using h
    obtain ⟨m, hm⟩ := Option.isSome_iff_exists.mp hlegal
    rw [f2hDue_of_code hv (code_of_ofCode hm)]
    exact f2hSound_f2hUnit b m c.f2hDataI

/-! ### The environment's obligation along the stimulus -/

theorem nextCycle_legal {s : State} (h : s.stimulus.all Cycle.f2hLegal = true) : s.nextCycle.f2hLegal = true := by
  unfold State.nextCycle
  cases hs : s.stimulus with
  | nil => rfl
  | cons c cs =>
    rw [hs] at h
    exact List.all_eq_true.mp h c (List.mem_cons_self)

theorem tail_legal {l : List Cycle} (h : l.all Cycle.f2hLegal = true) : l.tail.all Cycle.f2hLegal = true :=
  List.all_eq_true.mpr fun c hc => List.all_eq_true.mp h c (List.mem_of_mem_tail hc)

/-! ### The statements -/

theorem step_keeps_h2fInv {s t : State} (h : step s = .next t) (hs : s.H2fInv) : t.H2fInv := by
  rw [State.H2fInv, (step_result h).h2f]
  exact cycle_allResponses _ (h2fDue_image _) hs

theorem step_keeps_f2hInv {s t : State} (h : step s = .next t) (hs : s.F2hInv) : t.F2hInv := by
  obtain ⟨hall, hlegal⟩ := hs
  rw [State.F2hInv, (step_result h).f2h, (step_result h).stimulus]
  exact ⟨cycle_allResponses _ (f2hDue_sound (nextCycle_legal hlegal) _ _) hall, tail_legal hlegal⟩

/-- Settles O47: a step adds one answer to each channel, and both units answer soundly. -/
theorem stepKeepsResponsesSound : Obligations.StepKeepsResponsesSound :=
  fun _ _ h => ⟨step_keeps_h2fInv h, step_keeps_f2hInv h⟩

/-- Settles O48: after reset no response is held. -/
theorem resetResponsesSound : Obligations.ResetResponsesSound :=
  ⟨afterReset_allResponses h2fImage _, afterReset_allResponses f2hSound _, rfl⟩

end Sys2Proof.Machine
